-- ==== Sys2Proof/Word.lean ====
section
/-! DEFINITION. The word types of GHMC and nothing more: the 32-bit bus word, the 128-bit block, the 512-entry table. -/

namespace Sys2Proof

/-- A bus word and a command word: 32 bits (20_memory.md R83, 30_encoding.md R120). -/
abbrev Word := BitVec 32

/-- A block: 128 bits, W0 in bits 127:96 (00_scope.md R2, R4). -/
abbrev Block := BitVec 128

/-- The multiplication table T: 512 blocks, indexed by 16p + n (10_state.md R60). -/
abbrev Table := Vector Block 512

end Sys2Proof
end

