-- ==== Sys2Proof/Syntax.lean ====
section
/-! DEFINITION. The command words of GHMC as syntax: one constructor of Instr per row of the opcode table. -/

namespace Sys2Proof

/-- The modes of operation that MODE can name (30_encoding.md R123). -/
inductive Mode
  | cbc | cfb | ofb | ctr | gcm
deriving DecidableEq, Repr

/-- The direction, DIR: 0 encrypt, 1 decrypt (30_encoding.md R125). -/
inductive Dir
  | enc | dec
deriving DecidableEq, Repr

/-- The fifteen operations of the opcode map (30_encoding.md R130). -/
inductive Opcode
  | nop | start | block | gcmIv | gcmIvend | gcmAad | gcmFinish
  | ghLoadh | ghClear | ghSets | ghStep | ghMulref | ghMultbl | ghMulx | utInc32
deriving DecidableEq, Repr

/-- A command (30_encoding.md R130), with the fields its row leaves free (R121, R129). MODE, NB and TLEN stay the bits of
the word: START's own checks of them are part of its meaning (40_control.md R161). -/
inductive Instr
  /-- NOP, 0x00 (40_control.md R160). -/
  | nop
  /-- START, 0x01 (40_control.md R161). -/
  | start (mode : BitVec 3) (dir : Dir) (leg : Bool) (nb : BitVec 5) (tlen : BitVec 8)
  /-- BLOCK, 0x02 (40_control.md R166). -/
  | block (nb : BitVec 5)
  /-- GCM_IV, 0x03 (42_gcm.md R221). -/
  | gcmIv (nb : BitVec 5)
  /-- GCM_IVEND, 0x04 (42_gcm.md R222). -/
  | gcmIvend
  /-- GCM_AAD, 0x05 (42_gcm.md R223). -/
  | gcmAad (nb : BitVec 5)
  /-- GCM_FINISH, 0x06 (42_gcm.md R226). -/
  | gcmFinish
  /-- GH_LOADH, 0x10 (43_galois.md R268). -/
  | ghLoadh
  /-- GH_CLEAR, 0x11 (43_galois.md R269). -/
  | ghClear
  /-- GH_SETS, 0x12 (43_galois.md R270). -/
  | ghSets
  /-- GH_STEP, 0x13 (43_galois.md R271). -/
  | ghStep (nb : BitVec 5)
  /-- GH_MULREF, 0x14 (43_galois.md R272). -/
  | ghMulref
  /-- GH_MULTBL, 0x15 (43_galois.md R273). -/
  | ghMultbl
  /-- GH_MULX, 0x16 (43_galois.md R274). -/
  | ghMulx
  /-- UT_INC32, 0x20 (44_utilities.md R301). -/
  | utInc32
deriving DecidableEq, Repr

/-- The operation of a command. -/
def Instr.opcode : Instr → Opcode
  | .nop => .nop
  | .start _ _ _ _ _ => .start
  | .block _ => .block
  | .gcmIv _ => .gcmIv
  | .gcmIvend => .gcmIvend
  | .gcmAad _ => .gcmAad
  | .gcmFinish => .gcmFinish
  | .ghLoadh => .ghLoadh
  | .ghClear => .ghClear
  | .ghSets => .ghSets
  | .ghStep _ => .ghStep
  | .ghMulref => .ghMulref
  | .ghMultbl => .ghMultbl
  | .ghMulx => .ghMulx
  | .utInc32 => .utInc32

/-- The stream commands, whose failure aborts the stream (60_exceptions.md R312). -/
def Opcode.isStream : Opcode → Bool
  | .start | .block | .gcmIv | .gcmIvend | .gcmAad | .gcmFinish => true
  | .nop | .ghLoadh | .ghClear | .ghSets | .ghStep | .ghMulref | .ghMultbl | .ghMulx | .utInc32 => false

end Sys2Proof
end

