-- ==== Sys2Proof/WellFormed.lean ====
section
/-! DEFINITION. Which terms of Instr are the commands of some word: the field checks that decode makes. -/

namespace Sys2Proof

/-- The legal byte counts of a block command: 1 to 16 (30_encoding.md R124). -/
def nbLegal (nb : BitVec 5) : Bool :=
  1 ≤ nb.toNat && nb.toNat ≤ 16

/-- A command that some word decodes to (30_encoding.md R135). Decode checks no field of START: its values are checked at
the commit (40_control.md R161). -/
def Instr.wf : Instr → Bool
  | .block nb => nbLegal nb
  | .gcmIv nb => nbLegal nb
  | .gcmAad nb => nbLegal nb
  | .ghStep nb => nbLegal nb
  | .start _ _ _ _ _ => true
  | .nop | .gcmIvend | .gcmFinish | .ghLoadh | .ghClear | .ghSets | .ghMulref | .ghMultbl | .ghMulx | .utInc32 => true

end Sys2Proof
end

