-- ==== Sys2Proof/Decode.lean ====
section
/-! DEFINITION. The decoder of command words, total, in the order of 30_encoding.md R135, and the encoder after it. -/

namespace Sys2Proof

/-- Why a word is no command: its operation is not in the map, or a field is illegal for its operation (30_encoding.md
R135). -/
inductive DecodeError
  | illegalOp
  | illegalField (op : Opcode)
deriving DecidableEq, Repr

/-- OP, bits 7:0, by the opcode map (30_encoding.md R122, R130). -/
def opcodeOf (op : BitVec 8) : Option Opcode :=
  match op.toNat with
  | 0x00 => some .nop
  | 0x01 => some .start
  | 0x02 => some .block
  | 0x03 => some .gcmIv
  | 0x04 => some .gcmIvend
  | 0x05 => some .gcmAad
  | 0x06 => some .gcmFinish
  | 0x10 => some .ghLoadh
  | 0x11 => some .ghClear
  | 0x12 => some .ghSets
  | 0x13 => some .ghStep
  | 0x14 => some .ghMulref
  | 0x15 => some .ghMultbl
  | 0x16 => some .ghMulx
  | 0x20 => some .utInc32
  | _ => none

/-- The fields of the one format (30_encoding.md R121). -/
def opField (w : Word) : BitVec 8 := w.extractLsb' 0 8

/-- MODE, bits 10:8 (30_encoding.md R121, R123). -/
def modeField (w : Word) : BitVec 3 := w.extractLsb' 8 3

/-- DIR, bit 11 (30_encoding.md R121, R125). -/
def dirField (w : Word) : Dir := if w.getLsbD 11 then .dec else .enc

/-- LEG, bit 12 (30_encoding.md R121, R126). -/
def legField (w : Word) : Bool := w.getLsbD 12

/-- Bits 15:13, reserved (30_encoding.md R128). -/
def reservedLow (w : Word) : BitVec 3 := w.extractLsb' 13 3

/-- NB, bits 20:16 (30_encoding.md R121, R124). -/
def nbField (w : Word) : BitVec 5 := w.extractLsb' 16 5

/-- Bits 23:21, reserved (30_encoding.md R128). -/
def reservedHigh (w : Word) : BitVec 3 := w.extractLsb' 21 3

/-- TLEN, bits 31:24 (30_encoding.md R121, R127). -/
def tlenField (w : Word) : BitVec 8 := w.extractLsb' 24 8

/-- Bits 12:8: MODE, DIR and LEG together, zero in every command but START (30_encoding.md R129, R135). -/
def selectorBits (w : Word) : BitVec 5 := w.extractLsb' 8 5

/-- The block commands, which take NB in 1 to 16 (30_encoding.md R124, R135). -/
def Opcode.takesByteCount : Opcode → Bool
  | .block | .gcmIv | .gcmAad | .ghStep => true
  | .nop | .start | .gcmIvend | .gcmFinish | .ghLoadh | .ghClear | .ghSets | .ghMulref | .ghMultbl | .ghMulx
  | .utInc32 => false

/-- The command of an operation, with its fields read from the word. -/
def assemble (op : Opcode) (w : Word) : Instr :=
  match op with
  | .nop => .nop
  | .start => .start (modeField w) (dirField w) (legField w) (nbField w) (tlenField w)
  | .block => .block (nbField w)
  | .gcmIv => .gcmIv (nbField w)
  | .gcmIvend => .gcmIvend
  | .gcmAad => .gcmAad (nbField w)
  | .gcmFinish => .gcmFinish
  | .ghLoadh => .ghLoadh
  | .ghClear => .ghClear
  | .ghSets => .ghSets
  | .ghStep => .ghStep (nbField w)
  | .ghMulref => .ghMulref
  | .ghMultbl => .ghMultbl
  | .ghMulx => .ghMulx
  | .utInc32 => .utInc32

/-- The decode function (30_encoding.md R135). -/
def decode (w : Word) : Except DecodeError Instr :=
  match opcodeOf (opField w) with
  | none => .error .illegalOp
  | some op =>
    if reservedLow w ≠ 0 ∨ reservedHigh w ≠ 0 then .error (.illegalField op)
    else if op ≠ .start ∧ (selectorBits w ≠ 0 ∨ tlenField w ≠ 0) then .error (.illegalField op)
    else if op.takesByteCount = true ∧ nbLegal (nbField w) = false then .error (.illegalField op)
    else if op.takesByteCount = false ∧ op ≠ .start ∧ nbField w ≠ 0 then .error (.illegalField op)
    else .ok (assemble op w)

/-- The OP value of an operation (30_encoding.md R130). -/
def Opcode.bits : Opcode → BitVec 8
  | .nop => 0x00
  | .start => 0x01
  | .block => 0x02
  | .gcmIv => 0x03
  | .gcmIvend => 0x04
  | .gcmAad => 0x05
  | .gcmFinish => 0x06
  | .ghLoadh => 0x10
  | .ghClear => 0x11
  | .ghSets => 0x12
  | .ghStep => 0x13
  | .ghMulref => 0x14
  | .ghMultbl => 0x15
  | .ghMulx => 0x16
  | .utInc32 => 0x20

/-- DIR as its bit (30_encoding.md R125). -/
def Dir.bit : Dir → Bool
  | .enc => false
  | .dec => true

/-- A word from its fields, the most significant first (30_encoding.md R121). -/
def packWord (tlen : BitVec 8) (nb : BitVec 5) (leg dir : Bool) (mode : BitVec 3) (op : BitVec 8) : Word :=
  tlen ++ 0#3 ++ nb ++ 0#3 ++ BitVec.ofBool leg ++ BitVec.ofBool dir ++ mode ++ op

/-- The word of an operation whose only other field is NB (30_encoding.md R134). -/
def packByteCount (op : Opcode) (nb : BitVec 5) : Word :=
  packWord 0 nb false false 0 op.bits

/-- The word of an operation without fields (30_encoding.md R134). -/
def packPlain (op : Opcode) : Word :=
  packWord 0 0 false false 0 op.bits

/-- The word of a command (30_encoding.md R121, R134). -/
def encode : Instr → Word
  | .nop => packPlain .nop
  | .start mode dir leg nb tlen => packWord tlen nb leg dir.bit mode Opcode.start.bits
  | .block nb => packByteCount .block nb
  | .gcmIv nb => packByteCount .gcmIv nb
  | .gcmIvend => packPlain .gcmIvend
  | .gcmAad nb => packByteCount .gcmAad nb
  | .gcmFinish => packPlain .gcmFinish
  | .ghLoadh => packPlain .ghLoadh
  | .ghClear => packPlain .ghClear
  | .ghSets => packPlain .ghSets
  | .ghStep nb => packByteCount .ghStep nb
  | .ghMulref => packPlain .ghMulref
  | .ghMultbl => packPlain .ghMultbl
  | .ghMulx => packPlain .ghMulx
  | .utInc32 => packPlain .utInc32

/-- The 32-bit command word whose low nbits bits are w's and whose other bits are 0. -/
def wordOfTable (nbits w : Nat) : Word :=
  BitVec.ofNat 32 (w % 2 ^ nbits)

/-- The command the decoder reads from an opcode-table word; none where it refuses. -/
def decodeTableWord (nbits w : Nat) : Option Instr :=
  match decode (wordOfTable nbits w) with
  | .ok i => some i
  | .error _ => none

end Sys2Proof
end

