-- ==== Sys2Proof/Machine/Operands.lean ====
section
/-! DEFINITION. Operand assembly and the data-path functions on blocks: words, byte mask, byte and tag counts, inc32,
from64To32 and the length block. -/

namespace Sys2Proof.Machine

/-- Word Wk of a block: bits 127-32k to 96-32k (00_scope.md R4, 20_memory.md R85). -/
def blockWord (v : Block) (k : Fin 4) : Word :=
  v.extractLsb' (96 - 32 * k.val) 32

/-- The block v with its word Wk replaced by w (20_memory.md R85, R89). -/
def setBlockWord (v : Block) (k : Fin 4) (w : Word) : Block :=
  (v &&& ~~~((BitVec.allOnes 32).setWidth 128 <<< (96 - 32 * k.val))) ||| (w.setWidth 128 <<< (96 - 32 * k.val))

/-- The byte mask: bytes B0 to B(n-1) of v kept, the others zero (00_scope.md R7). -/
def mask (v : Block) (n : Nat) : Block :=
  v &&& (BitVec.ofNat 128 (2 ^ (8 * n) - 1) <<< (128 - 8 * n))

/-- A block masked to the byte count NB of a command (30_encoding.md R124, R131). -/
def maskNb (v : Block) (nb : BitVec 5) : Block :=
  mask v nb.toNat

/-- The bytes NB as a 64-bit count (30_encoding.md R131). -/
def byteCount (nb : BitVec 5) : BitVec 64 :=
  nb.setWidth 64

/-- The bits of NB bytes as a 64-bit count: 8 times NB (30_encoding.md R131). -/
def bitCount (nb : BitVec 5) : BitVec 64 :=
  8 * nb.setWidth 64

/-- Whether NB says a partial block, the value PCL takes (10_state.md R46). -/
def isPartial (nb : BitVec 5) : Bool :=
  nb.toNat < 16

/-- The mode that a MODE field names, none for the reserved values 0, 6 and 7 (30_encoding.md R123). -/
def modeOf (m : BitVec 3) : Option Mode :=
  match m.toNat with
  | 1 => some .cbc
  | 2 => some .cfb
  | 3 => some .ofb
  | 4 => some .ctr
  | 5 => some .gcm
  | _ => none

/-- The MODE number of a mode, as CFG shows it (10_state.md R44). -/
def modeBits : Option Mode → BitVec 3
  | none => 0
  | some .cbc => 1
  | some .cfb => 2
  | some .ofb => 3
  | some .ctr => 4
  | some .gcm => 5

/-- The TLEN values that START accepts in GCM: 0, or a multiple of 8 from 8 to 128 (30_encoding.md R127). -/
def tlenLegal (tlen : BitVec 8) : Bool :=
  tlen.toNat == 0 || (tlen.toNat % 8 == 0 && 8 ≤ tlen.toNat && tlen.toNat ≤ 128)

/-- The effective tag length in GCM: 0 means the default, 128 (30_encoding.md R127). -/
def effectiveTlen (tlen : BitVec 8) : BitVec 8 :=
  if tlen = 0 then 128 else tlen

/-- inc32: the trailing word W3 plus 1 modulo 2^32, with no carry into W2 (44_utilities.md R300). -/
def inc32 (v : Block) : Block :=
  v.extractLsb' 32 96 ++ (v.extractLsb' 0 32 + 1)

/-- from64To32: the high word, then the low word (44_utilities.md R302). -/
def from64To32 (l : BitVec 64) : Word × Word :=
  (l.extractLsb' 32 32, l.extractLsb' 0 32)

/-- The length block: two 64-bit fields, the first in the more significant half (44_utilities.md R303). -/
def lenblock (a c : BitVec 64) : Block :=
  a ++ c

/-- J0 of a 12-byte IV: its 96 bits, then the 32-bit number 1 (42_gcm.md R222). -/
def ivThenOne (v : Block) : Block :=
  v.extractLsb' 32 96 ++ 1#32

end Sys2Proof.Machine
end

