-- ==== Sys2Proof/Config.lean ====
section
/-! DEFINITION. What the spec leaves open, as constants without a body: the parameters CipherE, CipherD, BASE and LAT, and
the free values that unspecified reads and the table after reset hold. Nothing in Lean can evaluate one of them. -/

namespace Sys2Proof.Config

/-- The forward block cipher of the cipher port, fixed for a run (20_memory.md R96, I7; log 7). -/
opaque cipherE : Block → Block

/-- The inverse block cipher of the cipher port, used by CBC decryption only (20_memory.md R96, R97, I7; log 7). -/
opaque cipherD : Block → Block

/-- BASE divided by 256: the window's place on the host's bus (20_memory.md R81, I8; log 8). -/
opaque basePage : Nat

/-- LAT: the steps from the issue of a command word to its commit. The second argument numbers the drawing, so that two
issues of one word need not take equally long (70_reset_and_hazards.md R365, I9; log 3). -/
opaque latency : Word → Nat → Nat

/-- The value of the n-th unspecified read (20_memory.md R90, 10_state.md R62, I1, I2; log 4). -/
opaque freeRead : Nat → Word

/-- Entry i of T after the reset that made drawing n (70_reset_and_hazards.md R351, I3; log 5). -/
opaque tableAfterReset : Nat → Nat → Block

end Sys2Proof.Config
end

