-- ==== Sys2Proof/Machine/Multiplier.lean ====
section
/-! DEFINITION. The GF(2^128) multiplier: mulx, the reference product, the window table and the table product. -/

namespace Sys2Proof.Machine

/-- The reduction constant R: 0xE1000000 in W0 (43_galois.md R260). -/
def reduction : Block :=
  0xE1000000000000000000000000000000

/-- mulx: one right shift of the block, and R added where the bit shifted out was 1 (43_galois.md R260). -/
def mulx (v : Block) : Block :=
  (v >>> 1) ^^^ (if v.getLsbD 0 then reduction else 0)

/-- One round of the reference product on the pair (Z, V), for bit 127 - i of X (43_galois.md R261). -/
def gmulRound (x : Block) (zv : Block × Block) (i : Nat) : Block × Block :=
  (if x.getLsbD (127 - i) then zv.1 ^^^ zv.2 else zv.1, mulx zv.2)

/-- gmul_ref: the bit-serial product, the most significant bit of X first (43_galois.md R261). -/
def gmulRef (x y : Block) : Block :=
  ((List.range 128).foldl (gmulRound x) (0, y)).1

/-- table_entry: the product of H with the nibble n at position p, position 0 the most significant (43_galois.md R262). -/
def tableEntry (h : Block) (p n : Nat) : Block :=
  gmulRef (BitVec.ofNat 128 n <<< (124 - 4 * p)) h

/-- A table from its 512 entries. -/
def tabulate (f : Nat → Block) : Table :=
  ⟨((List.range 512).map f).toArray, by simp⟩

/-- The table of H: entry 16p + n is table_entry(H, p, n) (10_state.md R60, 43_galois.md R262). -/
def buildTable (h : Block) : Table :=
  tabulate fun i => tableEntry h (i / 16) (i % 16)

/-- The entry of a table at a 9-bit index (10_state.md R60, R61). -/
def tableAt (t : Table) (i : BitVec 9) : Block :=
  t[i.toNat]'i.isLt

/-- nib(X, p): bits 127-4p to 124-4p of X (43_galois.md R264). -/
def nib (x : Block) (p : Nat) : BitVec 4 :=
  x.extractLsb' (124 - 4 * p) 4

/-- The flat index 16p + n of a position and a nibble (10_state.md R60, 43_galois.md R262). -/
def flatIndex (p : Nat) (n : BitVec 4) : BitVec 9 :=
  BitVec.ofNat 9 (16 * p + n.toNat)

/-- tmul: the sum over the 32 positions of the table's entries for X's nibbles (43_galois.md R265). -/
def tmul (t : Table) (x : Block) : Block :=
  (List.range 32).foldl (fun z p => z ^^^ tableAt t (flatIndex p (nib x p))) 0

end Sys2Proof.Machine
end

