-- ==== Sys2Proof/Machine/State.lean ====
section
/-! DEFINITION. The state of GHMC, all of it as plain data, the reasons a step can stop, and the state after reset. -/

namespace Sys2Proof.Machine

/-- PHASE: where the stream stands (10_state.md R45). The codes 6 and 7 are never reached, so no constructor stands for
them. -/
inductive Phase
  | idle | text | gcmIv | gcmAad | gcmText | gcmDone
deriving DecidableEq, Repr

/-- PEND when it is not empty: the command word, and the steps left until its commit (10_state.md R64; the count is the
model's own, log 3). -/
structure Pending where
  word : Word
  wait : Nat
deriving DecidableEq, Repr

/-- One request on the cipher port (20_memory.md R96, R97). -/
inductive CipherRequest
  | forward (block : Block)
  | inverse (block : Block)
deriving DecidableEq, Repr

/-- What the host can do in one step. An access carries its bus address, its width in bytes and, for a write, its byte
strobes: only aligned 32-bit accesses with all four strobes are supported (20_memory.md R83). -/
inductive HostEvent
  /-- The host does nothing in this step. -/
  | idle
  /-- The platform asserts rst_n (70_reset_and_hazards.md R350). -/
  | hardReset
  /-- A bus read (20_memory.md R88). -/
  | read (addr bytes : Nat)
  /-- A bus write (20_memory.md R89). -/
  | write (addr bytes : Nat) (strobes : BitVec 4) (data : Word)
deriving DecidableEq, Repr

/-- The state of GHMC: every row of 10_state.md R67, then four fields of the model's own. -/
structure State where
  /-- CTRL.IE_DONE (10_state.md R56). -/
  ieDone : Bool
  /-- CTRL.IE_ERR (10_state.md R56). -/
  ieErr : Bool
  /-- STATUS.DONE (10_state.md R53). -/
  done : Bool
  /-- STATUS.ERR (10_state.md R52). -/
  err : Bool
  /-- STATUS.OVF (10_state.md R54). -/
  ovf : Bool
  /-- STATUS.ERRCODE (10_state.md R52, 60_exceptions.md R311). -/
  errcode : BitVec 8
  /-- PHASE (10_state.md R45). -/
  phase : Phase
  /-- PCL, partial closed (10_state.md R46). -/
  pcl : Bool
  /-- CHV, chain valid (10_state.md R47). -/
  chv : Bool
  /-- TBLV, table valid (10_state.md R48). -/
  tblv : Bool
  /-- TAGCHK, a tag has been checked (10_state.md R49). -/
  tagchk : Bool
  /-- TAGOK, the tag agreed (10_state.md R49). -/
  tagok : Bool
  /-- CFG.MODE, none standing for the value 0 (10_state.md R44). -/
  cfgMode : Option Mode
  /-- CFG.DIR (10_state.md R44). -/
  cfgDir : Dir
  /-- CFG.TLEN, the tag length in bits (10_state.md R44). -/
  cfgTlen : BitVec 8
  /-- DIN, the data-input block (10_state.md R32). -/
  din : Block
  /-- DOUT, the data-output block (10_state.md R33). -/
  dout : Block
  /-- CHAIN, the chaining block (10_state.md R34). -/
  chain : Block
  /-- H, the hash subkey (10_state.md R35). -/
  subkeyH : Block
  /-- S, the GHASH accumulator (10_state.md R36). -/
  accS : Block
  /-- J0, the initial counter block (10_state.md R37). -/
  j0 : Block
  /-- TAG, the computed tag (10_state.md R39). -/
  tag : Block
  /-- TAGEXP, the expected tag (10_state.md R40). -/
  tagexp : Block
  /-- AADLEN, in bits (10_state.md R41). -/
  aadlen : BitVec 64
  /-- CLEN, in bytes (10_state.md R42). -/
  clen : BitVec 64
  /-- IVLEN, in bytes (10_state.md R43). -/
  ivlen : BitVec 64
  /-- TBL_IDX, the index that TBL_DATA shows (10_state.md R61). -/
  tblIdx : BitVec 9
  /-- T, the multiplication table (10_state.md R60). -/
  table : Table
  /-- PEND, the pending command (10_state.md R64). -/
  pend : Option Pending
  /-- The model's own: the host's events not yet handled, oldest first (20_memory.md R94; log 1). -/
  inputs : List HostEvent
  /-- The model's own: the value the port returned for the last host read (20_memory.md R88; log 9). -/
  rdata : Word
  /-- The model's own: how many free values have been drawn (log 4). -/
  draws : Nat
  /-- The model's own: the requests made on the cipher port, oldest first (20_memory.md R97; log 10). -/
  cipherReqs : List CipherRequest
deriving DecidableEq, Repr

/-- Why the machine would stop with a fault: never. GHMC takes no trap, and a failing command is a command error that the
machine goes on after (60_exceptions.md R310, R322), so this type has no constructor. -/
inductive Fault
deriving DecidableEq, Repr

/-- Why a step has no meaning. -/
inductive Refusal
  /-- An arm of exec without a meaning; safe, since nothing runs. No arm answers it: every command has its meaning. -/
  | notModelled (mnemonic : String)
  /-- The bus: an access that is not an aligned 32-bit access with all byte strobes (20_memory.md R83, I4); safe, the spec
  tells a model to refuse it. -/
  | unsupportedAccess
  /-- The bus: an access outside the 256-byte window, not GHMC's (20_memory.md R81, I5); safe, the spec tells a model to
  refuse it. -/
  | outsideWindow
deriving DecidableEq, Repr

/-- T after the reset that makes drawing n: every entry a free value (70_reset_and_hazards.md R351; log 5). -/
def freeTable (n : Nat) : Table :=
  tabulate (Config.tableAfterReset n)

/-- The machine right after reset (10_state.md R67, 70_reset_and_hazards.md R351). -/
def State.reset : State where
  ieDone := false
  ieErr := false
  done := false
  err := false
  ovf := false
  errcode := 0
  phase := .idle
  pcl := false
  chv := false
  tblv := false
  tagchk := false
  tagok := false
  cfgMode := none
  cfgDir := .enc
  cfgTlen := 0
  din := 0
  dout := 0
  chain := 0
  subkeyH := 0
  accS := 0
  j0 := 0
  tag := 0
  tagexp := 0
  aadlen := 0
  clen := 0
  ivlen := 0
  tblIdx := 0
  table := freeTable 0
  pend := none
  inputs := []
  rdata := 0
  draws := 1
  cipherReqs := []

end Sys2Proof.Machine
end

