-- ==== Sys2Proof/Machine/Flags.lean ====
section
/-! DEFINITION. The flags: the error codes, the words that STATUS, CTRL and CFG read as, the write-1-to-clear bits, and irq. -/

namespace Sys2Proof.Machine

/-- The error codes a command can fail with (60_exceptions.md R311). -/
inductive ErrCode
  | illegalOp | illegalField | noStream | wrongMode | sequence | noIv | noPriorBlock | tagLenMismatch | noKey
deriving DecidableEq, Repr

/-- The ERRCODE value of a code (60_exceptions.md R311). -/
def errBits : ErrCode → BitVec 8
  | .illegalOp => 1
  | .illegalField => 2
  | .noStream => 3
  | .wrongMode => 4
  | .sequence => 5
  | .noIv => 6
  | .noPriorBlock => 7
  | .tagLenMismatch => 8
  | .noKey => 9

/-- The PHASE value of a phase (10_state.md R45). -/
def phaseBits : Phase → BitVec 3
  | .idle => 0
  | .text => 1
  | .gcmIv => 2
  | .gcmAad => 3
  | .gcmText => 4
  | .gcmDone => 5

/-- BUSY: a command is pending (10_state.md R55). -/
def busy (s : State) : Bool :=
  s.pend.isSome

/-- The word STATUS reads as, its highest field first (10_state.md R50). -/
def statusWord (s : State) : Word :=
  0#12 ++ BitVec.ofBool s.tagok ++ BitVec.ofBool s.tagchk ++ BitVec.ofBool s.chv ++ BitVec.ofBool s.tblv ++ s.errcode
    ++ BitVec.ofBool s.pcl ++ phaseBits s.phase ++ BitVec.ofBool s.ovf ++ BitVec.ofBool s.err ++ BitVec.ofBool s.done
    ++ BitVec.ofBool (busy s)

/-- The word CTRL reads as: SRST reads 0 (10_state.md R56). -/
def ctrlWord (s : State) : Word :=
  0#30 ++ BitVec.ofBool s.ieErr ++ BitVec.ofBool s.ieDone

/-- The word CFG reads as (10_state.md R59). -/
def cfgWord (s : State) : Word :=
  0#16 ++ s.cfgTlen ++ 0#4 ++ BitVec.ofBool (s.cfgDir.bit) ++ modeBits s.cfgMode

/-- The interrupt line (60_exceptions.md R319). -/
def irq (s : State) : Bool :=
  (s.done && s.ieDone) || ((s.err || s.ovf) && s.ieErr)

/-- A host write of w to STATUS: bit 1 clears DONE, bit 2 ERR and ERRCODE, bit 3 OVF (10_state.md R51). -/
def clearStatus (w : Word) (s : State) : State :=
  { s with
    done := s.done && !w.getLsbD 1
    err := s.err && !w.getLsbD 2
    errcode := if w.getLsbD 2 then 0 else s.errcode
    ovf := s.ovf && !w.getLsbD 3 }

end Sys2Proof.Machine
end

