-- ==== Sys2Proof/Machine/Ops.lean ====
section
/-! DEFINITION. The shared operations of the command engine: a successful commit, raising a command error (GHMC's only
exception), the check lists, folding a block into S, loading a subkey, the cipher requests, and reset. -/

namespace Sys2Proof.Machine

/-- One check of a command: where the condition does not hold, the command fails with the code (40_control.md, the
template). -/
structure Check where
  code : ErrCode
  holds : Bool

/-- The code of the first check that fails (60_exceptions.md R315). -/
def firstFailure : List Check → Option ErrCode
  | [] => none
  | c :: rest => if c.holds then firstFailure rest else some c.code

/-- The end of a successful commit: DONE set and PEND emptied (10_state.md R53, R64). -/
def succeed (s : State) : State :=
  { s with done := true, pend := none }

/-- Raising a command error: the first code is kept, a stream command's error ends the stream, DONE is set and PEND
emptied, and nothing else changes (60_exceptions.md R312, R313; 10_state.md R52, R64). -/
def raiseError (stream : Bool) (e : ErrCode) (s : State) : State :=
  { s with
    errcode := if s.err then s.errcode else errBits e
    err := true
    phase := if stream then .idle else s.phase
    pcl := if stream then false else s.pcl
    done := true
    pend := none }

/-- The commit of a command: its checks in order on the state before any write, then either the error of the first that
fails or the command's effect, all at once (10_state.md R38, R64; 60_exceptions.md R312). -/
def commit (op : Opcode) (checks : List Check) (effect : State → State) (s : State) :
    Host.Outcome State Fault Refusal :=
  match firstFailure checks with
  | some e => .next (raiseError op.isStream e s)
  | none => .next (succeed (effect s))

/-- The error of a word that is no command (30_encoding.md R133, 60_exceptions.md R311 to R313). -/
def raiseDecodeError (d : DecodeError) (s : State) : State :=
  match d with
  | .illegalOp => raiseError false .illegalOp s
  | .illegalField op => raiseError op.isStream .illegalField s

/-- ghash_step: S becomes the table product of S ^ X (43_galois.md R266). -/
def ghashStep (x : Block) (s : State) : State :=
  { s with accS := tmul s.table (s.accS ^^^ x) }

/-- A subkey and its table, loaded together (10_state.md R35, R63; 43_galois.md R268). -/
def loadSubkey (h : Block) (s : State) : State :=
  { s with subkeyH := h, table := buildTable h, tblv := true }

/-- One forward request on the cipher port, noted in the port's record (20_memory.md R97). -/
def requestForward (x : Block) (s : State) : State :=
  { s with cipherReqs := s.cipherReqs ++ [.forward x] }

/-- One inverse request on the cipher port, noted in the port's record (20_memory.md R97). -/
def requestInverse (x : Block) (s : State) : State :=
  { s with cipherReqs := s.cipherReqs ++ [.inverse x] }

/-- Reset, hard or soft: every register at its reset value, PEND emptied without a commit, T unspecified; the host's
remaining events, the port's last answer and the record of requests are outside the block and stay (10_state.md R57, R67;
70_reset_and_hazards.md R351). -/
def resetBlock (s : State) : State :=
  { State.reset with
    table := freeTable s.draws
    draws := s.draws + 1
    inputs := s.inputs
    rdata := s.rdata
    cipherReqs := s.cipherReqs }

end Sys2Proof.Machine
end

