-- ==== Sys2Proof/Machine/Bus.lean ====
section
/-! DEFINITION. The register window: the register map, host reads and writes, and the host's events. -/

namespace Sys2Proof.Machine

/-- The 128-bit result registers of the map (20_memory.md R84). -/
inductive BlockReg
  | dout | chain | h | s | j0 | tag | tagexp
deriving DecidableEq, Repr

/-- The 64-bit length registers of the map (20_memory.md R84). -/
inductive LengthReg
  | aadlen | clen | ivlen
deriving DecidableEq, Repr

/-- What an offset of the window names (20_memory.md R84). -/
inductive Reg
  | ctrl | status | cmd | cfg | id
  | din (k : Fin 4)
  | block (r : BlockReg) (k : Fin 4)
  | lengthHi (r : LengthReg)
  | lengthLo (r : LengthReg)
  | tblIdx
  | tblData (k : Fin 4)
  | reserved
deriving DecidableEq, Repr

/-- The number of the word that an offset names among the four of its 16 bytes (20_memory.md R81, R85). -/
def wordOfOffset (off : Nat) : Fin 4 :=
  ⟨off / 4 % 4, Nat.mod_lt _ (by decide)⟩

/-- The control registers, offsets 0x000 to 0x00C (20_memory.md R84). -/
def controlReg (k : Fin 4) : Reg :=
  match k with
  | 0 => .ctrl
  | 1 => .status
  | 2 => .cmd
  | 3 => .cfg

/-- The registers of offsets 0x0A0 to 0x0AC (20_memory.md R84). -/
def lengthRegLow (k : Fin 4) : Reg :=
  match k with
  | 0 => .lengthHi .aadlen
  | 1 => .lengthLo .aadlen
  | 2 => .lengthHi .clen
  | 3 => .lengthLo .clen

/-- The registers of offsets 0x0B0 to 0x0BC (20_memory.md R84). -/
def lengthRegHigh (k : Fin 4) : Reg :=
  match k with
  | 0 => .lengthHi .ivlen
  | 1 => .lengthLo .ivlen
  | 2 => .reserved
  | 3 => .reserved

/-- The register map: the register at a byte offset of the window; offsets that the map does not name are reserved
(20_memory.md R82, R84). -/
def regAt (off : Nat) : Reg :=
  match off / 16 with
  | 0x0 => controlReg (wordOfOffset off)
  | 0x1 => if wordOfOffset off = 0 then .id else .reserved
  | 0x2 => .din (wordOfOffset off)
  | 0x3 => .block .dout (wordOfOffset off)
  | 0x4 => .block .chain (wordOfOffset off)
  | 0x5 => .block .h (wordOfOffset off)
  | 0x6 => .block .s (wordOfOffset off)
  | 0x7 => .block .j0 (wordOfOffset off)
  | 0x8 => .block .tag (wordOfOffset off)
  | 0x9 => .block .tagexp (wordOfOffset off)
  | 0xA => lengthRegLow (wordOfOffset off)
  | 0xB => lengthRegHigh (wordOfOffset off)
  | 0xC => if wordOfOffset off = 0 then .tblIdx else .reserved
  | 0xD => .tblData (wordOfOffset off)
  | _ => .reserved

/-- The value of a result register (20_memory.md R84). -/
def blockRegValue (s : State) : BlockReg → Block
  | .dout => s.dout
  | .chain => s.chain
  | .h => s.subkeyH
  | .s => s.accS
  | .j0 => s.j0
  | .tag => s.tag
  | .tagexp => s.tagexp

/-- The value of a length register (20_memory.md R84). -/
def lengthRegValue (s : State) : LengthReg → BitVec 64
  | .aadlen => s.aadlen
  | .clen => s.clen
  | .ivlen => s.ivlen

/-- ID, hardwired (10_state.md R58). -/
def idWord : Word := 0x47484D31

/-- What a host read of a register gives; none where the spec leaves the value unspecified: a result register while BUSY
= 1, and TBL_DATA while TBLV = 0 too (20_memory.md R88, R90; 10_state.md R62). -/
def readReg (s : State) : Reg → Option Word
  | .ctrl => some (ctrlWord s)
  | .status => some (statusWord s)
  | .cmd => some 0
  | .cfg => some (cfgWord s)
  | .id => some idWord
  | .din k => some (blockWord s.din k)
  | .block r k => if busy s then none else some (blockWord (blockRegValue s r) k)
  | .lengthHi r => if busy s then none else some (from64To32 (lengthRegValue s r)).1
  | .lengthLo r => if busy s then none else some (from64To32 (lengthRegValue s r)).2
  | .tblIdx => some (s.tblIdx.setWidth 32)
  | .tblData k => if busy s || !s.tblv then none else some (blockWord (tableAt s.table s.tblIdx) k)
  | .reserved => some 0

/-- BusRead: the port answers the register's value, or a fresh free value where it is unspecified; no register changes
(20_memory.md R88, R90, R92; logs 4 and 9). -/
def busRead (off : Nat) (s : State) : State :=
  match readReg s (regAt off) with
  | some v => { s with rdata := v }
  | none => { s with rdata := Config.freeRead s.draws, draws := s.draws + 1 }

/-- A write dropped because BUSY = 1 (10_state.md R54). -/
def overrun (s : State) : State :=
  { s with ovf := true }

/-- The issue of a command: PEND takes the word, with a latency drawn for it (10_state.md R64; log 3). -/
def issue (w : Word) (s : State) : State :=
  { s with pend := some ⟨w, Config.latency w s.draws⟩, draws := s.draws + 1 }

/-- A host write of v to a register (20_memory.md R89, R91). -/
def writeReg (v : Word) (s : State) : Reg → State
  | .ctrl => if v.getLsbD 31 then resetBlock s else { s with ieDone := v.getLsbD 0, ieErr := v.getLsbD 1 }
  | .status => clearStatus v s
  | .cmd => if busy s then overrun s else issue v s
  | .din k => if busy s then overrun s else { s with din := setBlockWord s.din k v }
  | .tblIdx => if busy s then overrun s else { s with tblIdx := v.extractLsb' 0 9 }
  | .cfg | .id | .block _ _ | .lengthHi _ | .lengthLo _ | .tblData _ | .reserved => s

/-- BusWrite at an offset of the window (20_memory.md R89). -/
def busWrite (off : Nat) (v : Word) (s : State) : State :=
  writeReg v s (regAt off)

/-- BASE, aligned to 256 bytes (20_memory.md R81; log 8). -/
def base : Nat :=
  256 * Config.basePage

/-- Whether a bus address lies in the window (20_memory.md R80, R81). -/
def inWindow (addr : Nat) : Bool :=
  base ≤ addr && addr < base + 256

/-- Whether an access is supported: 32 bits, aligned, every byte strobe set (20_memory.md R83). -/
def supported (off bytes : Nat) (strobes : BitVec 4) : Bool :=
  bytes == 4 && off % 4 == 0 && strobes == 0xF

/-- A bus access: refused outside the window and where it is unsupported, else handled at its offset (20_memory.md R81,
R83; log 8). -/
def busAccess (addr bytes : Nat) (strobes : BitVec 4) (handle : Nat → State → State) (s : State) :
    Host.Outcome State Fault Refusal :=
  if !inWindow addr then .refused .outsideWindow
  else if !supported (addr - base) bytes strobes then .refused .unsupportedAccess
  else .next (handle (addr - base) s)

/-- One host event (20_memory.md R88, R89, R94; 70_reset_and_hazards.md R350). -/
def hostEvent (e : HostEvent) (s : State) : Host.Outcome State Fault Refusal :=
  match e with
  | .idle => .next s
  | .hardReset => .next (resetBlock s)
  | .read addr bytes => busAccess addr bytes 0xF busRead s
  | .write addr bytes strobes v => busAccess addr bytes strobes (fun off => busWrite off v) s

/-- The host's part of a step: the oldest event not yet handled, if there is one (20_memory.md R94; logs 1 and 2). -/
def hostPhase (s : State) : Host.Outcome State Fault Refusal :=
  match s.inputs with
  | [] => .next s
  | e :: rest => hostEvent e { s with inputs := rest }

end Sys2Proof.Machine
end

