-- ==== Sys2Proof/Machine/Chaining.lean ====
section
/-! DEFINITION. BLOCK: its checks and dispatch, and its body in each mode, the chaining units of CBC, CFB, OFB and CTR and
the text blocks of GCM. -/

namespace Sys2Proof.Machine

/-- The check of NB that decode has made on every word, first here too, so that a term no word decodes to fails as R124
says (30_encoding.md R124, R135; log 12). -/
def nbCheck (nb : BitVec 5) : Check :=
  ⟨.illegalField, nbLegal nb⟩

/-- BLOCK in CBC, encrypting (41_chaining.md R190). -/
def cbcEncrypt (s : State) : State :=
  { requestForward (s.din ^^^ s.chain) s with
    dout := Config.cipherE (s.din ^^^ s.chain)
    chain := Config.cipherE (s.din ^^^ s.chain)
    chv := true }

/-- BLOCK in CBC, decrypting: the old CHAIN is added, then CHAIN takes the ciphertext block (41_chaining.md R191). -/
def cbcDecrypt (s : State) : State :=
  { requestInverse s.din s with
    dout := Config.cipherD s.din ^^^ s.chain
    chain := s.din
    chv := true }

/-- The text of a keystream mode: the masked sum of DIN and the cipher of CHAIN (41_chaining.md R193 to R196, 42_gcm.md
R224, R225). -/
def keystreamText (nb : BitVec 5) (s : State) : Block :=
  maskNb (s.din ^^^ Config.cipherE s.chain) nb

/-- BLOCK in CFB, encrypting: the ciphertext just produced is fed back (41_chaining.md R193). -/
def cfbEncrypt (nb : BitVec 5) (s : State) : State :=
  { requestForward s.chain s with dout := keystreamText nb s, chain := keystreamText nb s }

/-- BLOCK in CFB, decrypting: the ciphertext just consumed is fed back (41_chaining.md R194). -/
def cfbDecrypt (nb : BitVec 5) (s : State) : State :=
  { requestForward s.chain s with dout := keystreamText nb s, chain := maskNb s.din nb }

/-- BLOCK in OFB: the whole keystream block is fed back (41_chaining.md R195). -/
def ofbBlock (nb : BitVec 5) (s : State) : State :=
  { requestForward s.chain s with dout := keystreamText nb s, chain := Config.cipherE s.chain }

/-- BLOCK in CTR: the counter's trailing word advances (41_chaining.md R196). -/
def ctrBlock (nb : BitVec 5) (s : State) : State :=
  { requestForward s.chain s with dout := keystreamText nb s, chain := inc32 s.chain }

/-- BLOCK in GCM: counter mode, and the given ciphertext block folded into S (42_gcm.md R224, R225). -/
def gcmBlock (nb : BitVec 5) (hashed : Block) (s : State) : State :=
  { ghashStep hashed (requestForward s.chain s) with
    dout := keystreamText nb s
    chain := inc32 s.chain
    clen := s.clen + byteCount nb
    phase := .gcmText }

/-- BLOCK in GCM, encrypting: the ciphertext just produced is hashed (42_gcm.md R224). -/
def gcmEncrypt (nb : BitVec 5) (s : State) : State :=
  gcmBlock nb (keystreamText nb s) s

/-- BLOCK in GCM, decrypting: the ciphertext just consumed is hashed (42_gcm.md R225). -/
def gcmDecrypt (nb : BitVec 5) (s : State) : State :=
  gcmBlock nb (maskNb s.din nb) s

/-- The checks of BLOCK, in their order (40_control.md R166). -/
def blockChecks (nb : BitVec 5) (s : State) : List Check :=
  [nbCheck nb, ⟨.noStream, s.phase != .idle⟩]
  ++ (if s.cfgMode = some .gcm then
        [⟨.noIv, s.phase != .gcmIv⟩, ⟨.sequence, s.phase != .gcmDone⟩,
         ⟨.sequence, !(s.phase == .gcmText && s.pcl)⟩]
      else
        [⟨.sequence, !s.pcl⟩, ⟨.illegalField, s.cfgMode != some .cbc || nb == 16⟩])

/-- The body of BLOCK in the latched mode and direction (40_control.md R166). The mode is none only in phase IDLE in every
state a run reaches; elsewhere that case changes nothing (log 11). -/
def blockBody (nb : BitVec 5) (s : State) : State :=
  match s.cfgMode, s.cfgDir with
  | none, _ => s
  | some .cbc, .enc => cbcEncrypt s
  | some .cbc, .dec => cbcDecrypt s
  | some .cfb, .enc => cfbEncrypt nb s
  | some .cfb, .dec => cfbDecrypt nb s
  | some .ofb, _ => ofbBlock nb s
  | some .ctr, _ => ctrBlock nb s
  | some .gcm, .enc => gcmEncrypt nb s
  | some .gcm, .dec => gcmDecrypt nb s

/-- BLOCK's effect: the body, then PCL (40_control.md R166). -/
def blockEffect (nb : BitVec 5) (s : State) : State :=
  { blockBody nb s with pcl := isPartial nb }

/-- BLOCK processes one block of text (40_control.md R166). -/
def execBlock (nb : BitVec 5) (s : State) : Host.Outcome State Fault Refusal :=
  commit .block (blockChecks nb s) (blockEffect nb) s

end Sys2Proof.Machine
end

