-- ==== Sys2Proof/Machine/Control.lean ====
section
/-! DEFINITION. Stream control: NOP and START. -/

namespace Sys2Proof.Machine

/-- NOP does nothing but commit (40_control.md R160). -/
def execNop (s : State) : Host.Outcome State Fault Refusal :=
  commit .nop [] id s

/-- The checks of START on MODE, NB, TLEN, LEG and CHV, in their order (40_control.md R161). -/
def startChecks (mode : BitVec 3) (dir : Dir) (leg : Bool) (nb : BitVec 5) (tlen : BitVec 8) (s : State) : List Check :=
  [⟨.illegalField, (modeOf mode).isSome⟩, ⟨.illegalField, nb.toNat ≤ 16⟩]
  ++ (if modeOf mode = some .gcm then
        [⟨.illegalField, tlenLegal tlen⟩, ⟨.illegalField, dir == .dec || nb == 0⟩]
      else
        [⟨.illegalField, tlen == 0 && nb == 0⟩])
  ++ [⟨.noIv, !leg || modeOf mode == some .cbc⟩, ⟨.noPriorBlock, !leg || s.chv⟩,
      ⟨.tagLenMismatch, !(modeOf mode == some .gcm && dir == .dec) || 8 * nb.toNat == (effectiveTlen tlen).toNat⟩]

/-- The effects of START common to every mode: the latched configuration and the cleared flags (40_control.md R162). -/
def latchConfig (m : Mode) (dir : Dir) (tlen : BitVec 8) (s : State) : State :=
  { s with
    cfgMode := some m
    cfgDir := dir
    cfgTlen := if m = .gcm then effectiveTlen tlen else 0
    pcl := false
    tagchk := false
    tagok := false }

/-- START in CBC: the IV, or with LEG = 1 the last block of the previous CBC stream, which CHAIN holds (40_control.md
R163). -/
def startCbc (leg : Bool) (s : State) : State :=
  { s with chain := if leg then s.chain else s.din, chv := true, phase := .text }

/-- START in CFB, OFB and CTR: the IV or the initial counter block (40_control.md R164). -/
def startKeystream (s : State) : State :=
  { s with chain := s.din, chv := false, phase := .text }

/-- START in GCM: the subkey from the cipher with its table, and the stream's registers cleared (40_control.md R165). -/
def startGcm (dir : Dir) (nb : BitVec 5) (s : State) : State :=
  { loadSubkey (Config.cipherE 0) (requestForward 0 s) with
    chain := 0
    chv := false
    accS := 0
    j0 := 0
    tag := 0
    aadlen := 0
    clen := 0
    ivlen := 0
    tagexp := if dir = .dec then maskNb s.din nb else 0
    phase := .gcmIv }

/-- START's effect in the mode its MODE field names; a reserved MODE has failed the first check (40_control.md R161 to
R165). -/
def startEffect (mode : BitVec 3) (dir : Dir) (leg : Bool) (nb : BitVec 5) (tlen : BitVec 8) (s : State) : State :=
  match modeOf mode with
  | none => s
  | some .cbc => startCbc leg (latchConfig .cbc dir tlen s)
  | some .cfb => startKeystream (latchConfig .cfb dir tlen s)
  | some .ofb => startKeystream (latchConfig .ofb dir tlen s)
  | some .ctr => startKeystream (latchConfig .ctr dir tlen s)
  | some .gcm => startGcm dir nb (latchConfig .gcm dir tlen s)

/-- START begins a stream (40_control.md R161 to R165). -/
def execStart (mode : BitVec 3) (dir : Dir) (leg : Bool) (nb : BitVec 5) (tlen : BitVec 8) (s : State) :
    Host.Outcome State Fault Refusal :=
  commit .start (startChecks mode dir leg nb tlen s) (startEffect mode dir leg nb tlen) s

end Sys2Proof.Machine
end

