-- ==== Sys2Proof/Machine/Galois.lean ====
section
/-! DEFINITION. The commands of the GHASH core: GH_LOADH, GH_CLEAR, GH_SETS, GH_STEP, GH_MULREF, GH_MULTBL and GH_MULX. -/

namespace Sys2Proof.Machine

/-- The check of the table commands that a subkey has been loaded (60_exceptions.md R315, R316). -/
def keyCheck (s : State) : Check :=
  ⟨.noKey, s.tblv⟩

/-- GH_LOADH loads DIN as the subkey and builds its table (43_galois.md R268). -/
def execGhLoadh (s : State) : Host.Outcome State Fault Refusal :=
  commit .ghLoadh [] (fun t => loadSubkey t.din t) s

/-- GH_CLEAR clears S (43_galois.md R269). -/
def execGhClear (s : State) : Host.Outcome State Fault Refusal :=
  commit .ghClear [] (fun t => { t with accS := 0 }) s

/-- GH_SETS loads S from DIN (43_galois.md R270). -/
def execGhSets (s : State) : Host.Outcome State Fault Refusal :=
  commit .ghSets [] (fun t => { t with accS := t.din }) s

/-- GH_STEP folds one block into S (43_galois.md R271). -/
def execGhStep (nb : BitVec 5) (s : State) : Host.Outcome State Fault Refusal :=
  commit .ghStep [nbCheck nb, keyCheck s] (fun t => ghashStep (maskNb t.din nb) t) s

/-- GH_MULREF gives the reference product of DIN and H (43_galois.md R272). -/
def execGhMulref (s : State) : Host.Outcome State Fault Refusal :=
  commit .ghMulref [keyCheck s] (fun t => { t with dout := gmulRef t.din t.subkeyH }) s

/-- GH_MULTBL gives the table product of DIN (43_galois.md R273). -/
def execGhMultbl (s : State) : Host.Outcome State Fault Refusal :=
  commit .ghMultbl [keyCheck s] (fun t => { t with dout := tmul t.table t.din }) s

/-- GH_MULX gives DIN times x (43_galois.md R274). -/
def execGhMulx (s : State) : Host.Outcome State Fault Refusal :=
  commit .ghMulx [] (fun t => { t with dout := mulx t.din }) s

end Sys2Proof.Machine
end

