-- ==== Sys2Proof/Machine/Gcm.lean ====
section
/-! DEFINITION. GCM sequencing: GCM_IV, GCM_IVEND, GCM_AAD and GCM_FINISH. -/

namespace Sys2Proof.Machine

/-- The two checks that every GCM_* command begins with (42_gcm.md R221, R222, R223, R226). -/
def gcmStreamChecks (s : State) : List Check :=
  [⟨.noStream, s.phase != .idle⟩, ⟨.wrongMode, s.cfgMode == some .gcm⟩]

/-- GCM_IV's effect: the chunk kept in J0 and folded into S, and counted (42_gcm.md R221). -/
def gcmIvEffect (nb : BitVec 5) (s : State) : State :=
  { ghashStep (maskNb s.din nb) s with
    j0 := maskNb s.din nb
    ivlen := s.ivlen + byteCount nb
    pcl := isPartial nb }

/-- GCM_IV supplies one chunk of the IV (42_gcm.md R221). -/
def execGcmIv (nb : BitVec 5) (s : State) : Host.Outcome State Fault Refusal :=
  commit .gcmIv (nbCheck nb :: gcmStreamChecks s ++ [⟨.sequence, s.phase == .gcmIv && !s.pcl⟩]) (gcmIvEffect nb) s

/-- The pre-counter block: of a 12-byte IV the IV and a 1, of any other the hash of the IV and its length block (42_gcm.md
R222). -/
def preCounter (s : State) : Block :=
  if s.ivlen = 12 then ivThenOne s.j0 else (ghashStep (lenblock 0 (s.ivlen * 8)) s).accS

/-- GCM_IVEND's effect: J0 and the first counter block, S cleared for the AAD (42_gcm.md R222). -/
def gcmIvendEffect (s : State) : State :=
  { s with
    j0 := preCounter s
    accS := 0
    chain := inc32 (preCounter s)
    phase := .gcmAad
    pcl := false }

/-- GCM_IVEND ends the IV (42_gcm.md R222). -/
def execGcmIvend (s : State) : Host.Outcome State Fault Refusal :=
  commit .gcmIvend (gcmStreamChecks s ++ [⟨.sequence, s.phase == .gcmIv⟩]) gcmIvendEffect s

/-- GCM_AAD's effect: the chunk folded into S and counted in bits (42_gcm.md R223). -/
def gcmAadEffect (nb : BitVec 5) (s : State) : State :=
  { ghashStep (maskNb s.din nb) s with
    aadlen := s.aadlen + bitCount nb
    pcl := isPartial nb }

/-- GCM_AAD folds one chunk of associated data (42_gcm.md R223). -/
def execGcmAad (nb : BitVec 5) (s : State) : Host.Outcome State Fault Refusal :=
  commit .gcmAad
    (nbCheck nb :: gcmStreamChecks s
      ++ [⟨.noIv, s.phase != .gcmIv⟩, ⟨.sequence, s.phase == .gcmAad && !s.pcl⟩])
    (gcmAadEffect nb) s

/-- S after the length block is folded (42_gcm.md R226, R229). -/
def finalHash (s : State) : Block :=
  (ghashStep (lenblock s.aadlen (s.clen * 8)) s).accS

/-- The tag: the leftmost CFG.TLEN bits of the hash added to the cipher of J0 (42_gcm.md R226, R227). -/
def computeTag (s : State) : Block :=
  mask (finalHash s ^^^ Config.cipherE s.j0) (s.cfgTlen.toNat / 8)

/-- GCM_FINISH's effect: S, TAG, and on decryption the comparison of all 128 bits (42_gcm.md R226, R228). -/
def gcmFinishEffect (s : State) : State :=
  { requestForward s.j0 s with
    accS := finalHash s
    tag := computeTag s
    tagchk := if s.cfgDir = .dec then true else s.tagchk
    tagok := if s.cfgDir = .dec then computeTag s == s.tagexp else s.tagok
    phase := .gcmDone
    pcl := false }

/-- GCM_FINISH folds the length block and forms the tag (42_gcm.md R226). -/
def execGcmFinish (s : State) : Host.Outcome State Fault Refusal :=
  commit .gcmFinish
    (gcmStreamChecks s ++ [⟨.noIv, s.phase != .gcmIv⟩, ⟨.sequence, s.phase != .gcmDone⟩])
    gcmFinishEffect s

end Sys2Proof.Machine
end

