-- ==== Sys2Proof/Machine/Utilities.lean ====
section
/-! DEFINITION. The utility command UT_INC32. -/

namespace Sys2Proof.Machine

/-- UT_INC32 gives inc32 of DIN (44_utilities.md R301). -/
def execUtInc32 (s : State) : Host.Outcome State Fault Refusal :=
  commit .utInc32 [] (fun t => { t with dout := inc32 t.din }) s

end Sys2Proof.Machine
end

