-- ==== Sys2Proof/Machine/Dispatch.lean ====
section
/-! DEFINITION. The dispatch: one arm per command, each a direct call of its meaning. -/

namespace Sys2Proof.Machine

def exec (i : Instr) (s : State) : Host.Outcome State Fault Refusal :=
  match i with
  | .nop => Sys2Proof.Machine.execNop s
  | .start mode dir leg nb tlen => Sys2Proof.Machine.execStart mode dir leg nb tlen s
  | .block nb => Sys2Proof.Machine.execBlock nb s
  | .gcmIv nb => Sys2Proof.Machine.execGcmIv nb s
  | .gcmIvend => Sys2Proof.Machine.execGcmIvend s
  | .gcmAad nb => Sys2Proof.Machine.execGcmAad nb s
  | .gcmFinish => Sys2Proof.Machine.execGcmFinish s
  | .ghLoadh => Sys2Proof.Machine.execGhLoadh s
  | .ghClear => Sys2Proof.Machine.execGhClear s
  | .ghSets => Sys2Proof.Machine.execGhSets s
  | .ghStep nb => Sys2Proof.Machine.execGhStep nb s
  | .ghMulref => Sys2Proof.Machine.execGhMulref s
  | .ghMultbl => Sys2Proof.Machine.execGhMultbl s
  | .ghMulx => Sys2Proof.Machine.execGhMulx s
  | .utInc32 => Sys2Proof.Machine.execUtInc32 s

end Sys2Proof.Machine
end

