-- ==== Sys2Proof/Machine/Engine.lean ====
section
/-! DEFINITION. The command engine: the commit of a command word and one tick of the pending command. -/

namespace Sys2Proof.Machine

/-- The commit of a command word: the command it decodes to, or the error of a word that is no command (10_state.md R64,
30_encoding.md R133). -/
def commitWord (w : Word) (s : State) : Host.Outcome State Fault Refusal :=
  match decode w with
  | .ok i => exec i s
  | .error d => .next (raiseDecodeError d s)

/-- One tick of the engine: a pending command whose latency has run out commits, another waits one step less (10_state.md
R64, 70_reset_and_hazards.md R365; log 3). -/
def engineTick (s : State) : Host.Outcome State Fault Refusal :=
  match s.pend with
  | none => .next s
  | some ⟨w, 0⟩ => commitWord w s
  | some ⟨w, n + 1⟩ => .next { s with pend := some ⟨w, n⟩ }

/-- A state in which the command word w is pending, commits at the next tick, and the host is idle in the next step
(log 1). -/
def placeWord (w : Word) (s : State) : State :=
  { s with pend := some ⟨w, 0⟩, inputs := .idle :: s.inputs }

end Sys2Proof.Machine
end

