-- ==== Sys2Proof/Machine/Step.lean ====
section
/-! DEFINITION. One step of GHMC: at most one host event, then one tick of the command engine. -/

namespace Sys2Proof.Machine

/-- One step: the host's event first, then the engine, so that where a write and a commit fall in one step the commit's
settings win (10_state.md R51, R53, 20_memory.md R94; log 2). -/
def step (s : State) : Host.Outcome State Fault Refusal :=
  match hostPhase s with
  | .next t => engineTick t
  | .fault r => .fault r
  | .refused r => .refused r

/-- s with an opcode-table word as its pending command, to be committed by the next step (log 1). -/
def State.withFetchWord (s : State) (nbits w : Nat) : State :=
  placeWord (wordOfTable nbits w) s

end Sys2Proof.Machine
end

