-- ==== Sys2Proof/Safety.lean ====
section
/-! DEFINITION. What counts as a good state, and the terms the claims are stated in: streams of commands as the host issues
them, the tables of the spec that a claim holds the machine against, and the hash and the chains they speak of. -/

namespace Sys2Proof.Safety

open Sys2Proof.Machine

/-- The phases of a GCM stream (10_state.md R45). -/
def isGcmPhase : Phase → Bool
  | .gcmIv | .gcmAad | .gcmText | .gcmDone => true
  | .idle | .text => false

/-- The phases in which PCL can be 1 (10_state.md R46, 40_control.md R167). -/
def canBeClosed : Phase → Bool
  | .text | .gcmIv | .gcmAad | .gcmText => true
  | .idle | .gcmDone => false

/-- What holds of every state a run reaches. -/
structure Inv (s : State) : Prop where
  /-- The table invariant (10_state.md R63). -/
  table_of_subkey : s.tblv = true → s.table = buildTable s.subkeyH
  /-- Before a subkey is loaded H has its reset value (10_state.md R35, R48). -/
  no_subkey : s.tblv = false → s.subkeyH = 0
  /-- A GCM phase belongs to a GCM stream, whose START set TBLV (43_galois.md R265). -/
  gcm_phase : isGcmPhase s.phase = true → s.cfgMode = some .gcm ∧ s.tblv = true
  /-- TEXT belongs to a CBC, CFB, OFB or CTR stream (10_state.md R45). -/
  text_phase : s.phase = .text → s.cfgMode ≠ none ∧ s.cfgMode ≠ some .gcm
  /-- CHV is 1 exactly after a CBC START (10_state.md R47). -/
  chain_valid : s.chv = true ↔ s.cfgMode = some .cbc
  /-- ERRCODE is 0 while ERR = 0 (10_state.md R50). -/
  no_error_code : s.err = false → s.errcode = 0
  /-- ERRCODE is a code of the table while ERR = 1 (60_exceptions.md R311). -/
  error_code : s.err = true → 1 ≤ s.errcode.toNat ∧ s.errcode.toNat ≤ 9
  /-- CFG.TLEN is a multiple of 8 from 8 to 128 in GCM (10_state.md R44). -/
  tag_length : s.cfgMode = some .gcm → s.cfgTlen.toNat % 8 = 0 ∧ 8 ≤ s.cfgTlen.toNat ∧ s.cfgTlen.toNat ≤ 128
  /-- CFG.TLEN is 0 in every other mode (10_state.md R44). -/
  no_tag_length : s.cfgMode ≠ some .gcm → s.cfgTlen = 0
  /-- PCL is 1 only where a part of a stream is closed (10_state.md R46). -/
  closed_phase : s.pcl = true → canBeClosed s.phase = true
  /-- CBC takes no partial block (41_chaining.md R190). -/
  cbc_whole : s.cfgMode = some .cbc → s.pcl = false
  /-- TAGOK says something only with TAGCHK (10_state.md R49). -/
  tag_ok : s.tagok = true → s.tagchk = true
  /-- After a check TAGOK is the comparison (42_gcm.md R228). -/
  tag_checked : s.tagchk = true → s.tagok = (s.tag == s.tagexp)
  /-- Only a finished GCM decryption has checked a tag (42_gcm.md R226). -/
  tag_stream : s.tagchk = true → s.cfgMode = some .gcm ∧ s.cfgDir = .dec ∧ (s.phase = .gcmDone ∨ s.phase = .idle)
  /-- TAG is truncated to the tag length (10_state.md R39). -/
  tag_masked : s.cfgMode = some .gcm → mask s.tag (s.cfgTlen.toNat / 8) = s.tag
  /-- TAGEXP is truncated to the tag length (42_gcm.md R228). -/
  tagexp_masked : s.cfgMode = some .gcm → mask s.tagexp (s.cfgTlen.toNat / 8) = s.tagexp
  /-- AADLEN counts whole bytes (10_state.md R41). -/
  whole_bytes : s.aadlen.toNat % 8 = 0

/-! ### The error of a command, from the spec's lists -/

/-- The error of a START, by the lines of its rule in their order (40_control.md R161). -/
def startError (mode : BitVec 3) (dir : Dir) (leg : Bool) (nb : BitVec 5) (tlen : BitVec 8) (chv : Bool) :
    Option ErrCode :=
  if ¬ (1 ≤ mode.toNat ∧ mode.toNat ≤ 5) then some .illegalField
  else if ¬ nb.toNat ≤ 16 then some .illegalField
  else if mode.toNat ≠ 5 ∧ ¬ (tlen = 0 ∧ nb = 0) then some .illegalField
  else if mode.toNat = 5 ∧ ¬ (tlen = 0 ∨ tlen.toNat % 8 = 0 ∧ 8 ≤ tlen.toNat ∧ tlen.toNat ≤ 128) then some .illegalField
  else if mode.toNat = 5 ∧ dir = .enc ∧ nb ≠ 0 then some .illegalField
  else if leg = true ∧ mode.toNat ≠ 1 then some .noIv
  else if leg = true ∧ chv = false then some .noPriorBlock
  else if mode.toNat = 5 ∧ dir = .dec ∧ 8 * nb.toNat ≠ (if tlen = 0 then 128 else tlen.toNat) then some .tagLenMismatch
  else none

/-- The acceptance matrix: the error that a stream command other than START raises in a phase with a PCL; none where it
is accepted (40_control.md R168). -/
def acceptance (op : Opcode) (phase : Phase) (pcl : Bool) : Option ErrCode :=
  match op, phase, pcl with
  | .block, .idle, _ => some .noStream
  | .block, .text, closed => if closed then some .sequence else none
  | .block, .gcmIv, _ => some .noIv
  | .block, .gcmAad, _ => none
  | .block, .gcmText, closed => if closed then some .sequence else none
  | .block, .gcmDone, _ => some .sequence
  | .gcmIv, .idle, _ => some .noStream
  | .gcmIv, .text, _ => some .wrongMode
  | .gcmIv, .gcmIv, closed => if closed then some .sequence else none
  | .gcmIv, .gcmAad, _ => some .sequence
  | .gcmIv, .gcmText, _ => some .sequence
  | .gcmIv, .gcmDone, _ => some .sequence
  | .gcmIvend, .idle, _ => some .noStream
  | .gcmIvend, .text, _ => some .wrongMode
  | .gcmIvend, .gcmIv, _ => none
  | .gcmIvend, .gcmAad, _ => some .sequence
  | .gcmIvend, .gcmText, _ => some .sequence
  | .gcmIvend, .gcmDone, _ => some .sequence
  | .gcmAad, .idle, _ => some .noStream
  | .gcmAad, .text, _ => some .wrongMode
  | .gcmAad, .gcmIv, _ => some .noIv
  | .gcmAad, .gcmAad, closed => if closed then some .sequence else none
  | .gcmAad, .gcmText, _ => some .sequence
  | .gcmAad, .gcmDone, _ => some .sequence
  | .gcmFinish, .idle, _ => some .noStream
  | .gcmFinish, .text, _ => some .wrongMode
  | .gcmFinish, .gcmIv, _ => some .noIv
  | .gcmFinish, .gcmAad, _ => none
  | .gcmFinish, .gcmText, _ => none
  | .gcmFinish, .gcmDone, _ => some .sequence
  | _, _, _ => none

/-- The state after a command fails with a code: the whole of what an error changes (60_exceptions.md R312). -/
def errorState (stream : Bool) (e : ErrCode) (s : State) : State :=
  { s with
    errcode := if s.err = true then s.errcode else errBits e
    err := true
    phase := if stream = true then .idle else s.phase
    pcl := if stream = true then false else s.pcl
    done := true
    pend := none }

/-- PHASE and PCL after a successful command, by the table of transitions (40_control.md R167). START's mode decides its
phase. -/
def phaseAfter (i : Instr) (phase : Phase) (pcl : Bool) : Phase × Bool :=
  match i with
  | .start mode _ _ _ _ => (if mode.toNat = 5 then .gcmIv else .text, false)
  | .block nb => (if phase = .gcmAad ∨ phase = .gcmText then .gcmText else phase, isPartial nb)
  | .gcmIv nb => (.gcmIv, isPartial nb)
  | .gcmIvend => (.gcmAad, false)
  | .gcmAad nb => (.gcmAad, isPartial nb)
  | .gcmFinish => (.gcmDone, false)
  | .nop | .ghLoadh | .ghClear | .ghSets | .ghStep _ | .ghMulref | .ghMultbl | .ghMulx | .utInc32 => (phase, pcl)

/-- The cipher requests of a successful command (20_memory.md R97). -/
def requestsOf (i : Instr) (s : State) : List CipherRequest :=
  match i with
  | .start mode _ _ _ _ => if mode.toNat = 5 then [.forward 0] else []
  | .block _ =>
    match s.cfgMode, s.cfgDir with
    | some .cbc, .enc => [.forward (s.din ^^^ s.chain)]
    | some .cbc, .dec => [.inverse s.din]
    | _, _ => [.forward s.chain]
  | .gcmFinish => [.forward s.j0]
  | .nop | .gcmIv _ | .gcmIvend | .gcmAad _ | .ghLoadh | .ghClear | .ghSets | .ghStep _ | .ghMulref | .ghMultbl
  | .ghMulx | .utInc32 => []

/-! ### Streams -/

/-- The state after the host has written x to DIN and a command has committed. -/
def runOn (x : Block) (i : Instr) (s : State) : State :=
  match exec i { s with din := x } with
  | .next t => t
  | .fault _ => s
  | .refused _ => s

/-- The state after a sequence of blocks has been given to one kind of command. -/
def feed (cmd : BitVec 5 → Instr) : List (Block × BitVec 5) → State → State
  | [], s => s
  | (x, nb) :: rest, s => feed cmd rest (runOn x (cmd nb) s)

/-- What DOUT holds after each command of such a sequence. -/
def outputs (cmd : BitVec 5 → Instr) : List (Block × BitVec 5) → State → List Block
  | [], _ => []
  | (x, nb) :: rest, s => (runOn x (cmd nb) s).dout :: outputs cmd rest (runOn x (cmd nb) s)

/-- A part of a stream in legal chunks: each of 16 bytes but the last, which is of 1 to 16 (40_control.md R166, 42_gcm.md
R221, R223). -/
def chunksLegal : List (Block × BitVec 5) → Bool
  | [] => true
  | [(_, nb)] => nbLegal nb
  | (_, nb) :: next :: rest => nb == 16 && chunksLegal (next :: rest)

/-- The bytes of a part of a stream. -/
def totalBytes (xs : List (Block × BitVec 5)) : Nat :=
  (xs.map fun c => c.2.toNat).sum

/-- The chunks of a part of a stream, each zero-padded to a block. -/
def padded (xs : List (Block × BitVec 5)) : List Block :=
  xs.map fun c => maskNb c.1 c.2

/-- The state accepts a first or a next block of text in a mode other than GCM. -/
def textReady (m : Mode) (s : State) : Prop :=
  s.phase = .text ∧ s.cfgMode = some m ∧ s.pcl = false

/-- GHASH over blocks from an accumulator, with the reference product (42_gcm.md R230). -/
def ghash (h : Block) (acc : Block) (xs : List Block) : Block :=
  xs.foldl (fun z x => gmulRef (z ^^^ x) h) acc

/-- The ciphertext blocks of CBC from a chaining block (41_chaining.md R192). -/
def cbcCiphertext : Block → List Block → List Block
  | _, [] => []
  | c, p :: rest => Config.cipherE (p ^^^ c) :: cbcCiphertext (Config.cipherE (p ^^^ c)) rest

/-- The plaintext blocks of CBC from a chaining block (41_chaining.md R192). -/
def cbcPlaintext : Block → List Block → List Block
  | _, [] => []
  | c, y :: rest => (Config.cipherD y ^^^ c) :: cbcPlaintext y rest

/-- The counter block i steps after b: W3 plus i modulo 2^32 (41_chaining.md R198). -/
def counterAt (b : Block) (i : Nat) : Block :=
  b.extractLsb' 32 96 ++ (b.extractLsb' 0 32 + BitVec.ofNat 32 i)

/-- The texts of counter mode from a counter block: each chunk added to the cipher of its counter, masked (41_chaining.md
R198, 42_gcm.md R231). -/
def counterTexts (b : Block) (xs : List (Block × BitVec 5)) : List Block :=
  xs.zipIdx.map fun c => maskNb (c.1.1 ^^^ Config.cipherE (counterAt b c.2)) c.1.2

/-- The blocks of one list with the byte counts of another. -/
def withCounts (ys : List Block) (xs : List (Block × BitVec 5)) : List (Block × BitVec 5) :=
  ys.zip (xs.map fun c => c.2)

/-- The outcome as an option, where only the next state matters. -/
def nextOf : Host.Outcome State Fault Refusal → Option State
  | .next t => some t
  | .fault _ => none
  | .refused _ => none

/-- Whether an outcome is a next state with a decidable property; for tests. -/
def nextWith (p : State → Bool) (o : Host.Outcome State Fault Refusal) : Bool :=
  match nextOf o with
  | some t => p t
  | none => false

end Sys2Proof.Safety
end

