-- ==== Sys2Proof/Certificates/Slice0/Obligations.lean ====
section
/-! DEFINITION. The statements for the provers: what each command does, what an error changes, how the window is read and
written, the laws of the chains, of GCM and of the multiplier, and the invariant that every step keeps. A record update in a
statement says the frame too: every field it does not name is as it was. -/

section

open Sys2Proof Sys2Proof.Machine Sys2Proof.Safety

/-! ### Words and commands -/

/-- Words written out from the spec's encodings decode to the commands they stand for (30_encoding.md, R134's examples). -/
def Obligations.WrittenWordsDecode : Prop :=
  decode 0x00000000 = .ok .nop
  ∧ decode 0x00001101 = .ok (.start 1 .enc true 0 0)
  ∧ decode 0x600C0D01 = .ok (.start 5 .dec false 12 0x60)
  ∧ decode 0x000C0002 = .ok (.block 12)
  ∧ decode 0x000C0003 = .ok (.gcmIv 12)
  ∧ decode 0x00040005 = .ok (.gcmAad 4)
  ∧ decode 0x00000006 = .ok .gcmFinish
  ∧ decode 0x00100013 = .ok (.ghStep 16)
  ∧ decode 0x00000015 = .ok .ghMultbl
  ∧ decode 0x00000020 = .ok .utInc32

/-- Decoding the word of any well-formed command gives the command back (30_encoding.md R121, R135). -/
def Obligations.DecodeInvertsEncode : Prop :=
  ∀ i : Instr, i.wf = true → decode (encode i) = .ok i

/-- A word that decodes to a command is that command's own word, and the command is well-formed: no bit of a word is
dropped (30_encoding.md R133, R135). -/
def Obligations.EncodeInvertsDecode : Prop :=
  ∀ (w : Word) (i : Instr), decode w = .ok i → encode i = w ∧ i.wf = true

/-- OP selects the command by the opcode map, and a value outside the map fails with ILLEGAL_OP (30_encoding.md R122). -/
def Obligations.OperationFieldSelectsCommand : Prop :=
  (∀ (w : Word) (i : Instr), decode w = .ok i → i.opcode.bits = w.extractLsb' 0 8)
  ∧ ∀ (w : Word) (s : State),
      (w.extractLsb' 0 8).toNat ∉
        [0x00, 0x01, 0x02, 0x03, 0x04, 0x05, 0x06, 0x10, 0x11, 0x12, 0x13, 0x14, 0x15, 0x16, 0x20] →
      commitWord w s = .next (errorState false .illegalOp s)

/-- A reserved bit set, or a field set that the operation does not use, fails with ILLEGAL_FIELD (30_encoding.md R128,
R129). -/
def Obligations.ReservedOrUnusedBitsFail : Prop :=
  ∀ (w : Word) (op : Opcode) (s : State), op.bits = w.extractLsb' 0 8 →
    (w.extractLsb' 13 3 ≠ 0 ∨ w.extractLsb' 21 3 ≠ 0
      ∨ op ≠ .start ∧ (w.extractLsb' 8 5 ≠ 0 ∨ w.extractLsb' 24 8 ≠ 0)
      ∨ op ∉ [.start, .block, .gcmIv, .gcmAad, .ghStep] ∧ w.extractLsb' 16 5 ≠ 0) →
    commitWord w s = .next (errorState op.isStream .illegalField s)

/-- A byte count outside 1 to 16 in a block command fails with ILLEGAL_FIELD before any other check, both as a word
(30_encoding.md R124, R135) and as a command given to exec, which no word decodes to: that the meanings repeat the check is
the model's deduction (log 12). -/
def Obligations.ByteCountOutsideRangeFails : Prop :=
  ∀ (nb : BitVec 5) (s : State), (nb.toNat = 0 ∨ 16 < nb.toNat) →
    (exec (.block nb) s = .next (errorState true .illegalField s)
      ∧ exec (.gcmIv nb) s = .next (errorState true .illegalField s)
      ∧ exec (.gcmAad nb) s = .next (errorState true .illegalField s)
      ∧ exec (.ghStep nb) s = .next (errorState false .illegalField s))
    ∧ (commitWord (encode (.block nb)) s = .next (errorState true .illegalField s)
      ∧ commitWord (encode (.gcmIv nb)) s = .next (errorState true .illegalField s)
      ∧ commitWord (encode (.gcmAad nb)) s = .next (errorState true .illegalField s)
      ∧ commitWord (encode (.ghStep nb)) s = .next (errorState false .illegalField s))

/-! ### Steps -/

/-- A step in which the pending word's latency has run out is exec of the command it decodes to, on the state after the
host's event; with an idle host, on the state itself (10_state.md R64; the order within a step is log 2's, and placing a
word log 1's). -/
def Obligations.StepRunsDecodedCommand : Prop :=
  (∀ (s t : State) (w : Word) (i : Instr), hostPhase s = .next t → t.pend = some ⟨w, 0⟩ → decode w = .ok i →
    step s = exec i t)
  ∧ (∀ (s : State) (w : Word) (i : Instr), s.inputs = [] → s.pend = some ⟨w, 0⟩ → decode w = .ok i →
    step s = exec i s)
  ∧ ∀ (s : State) (nbits w : Nat) (i : Instr), decodeTableWord nbits w = some i →
    step (s.withFetchWord nbits w) = exec i { s with pend := some ⟨wordOfTable nbits w, 0⟩ }

/-- While the host is idle a pending command commits after exactly the steps its latency says, one more than the count it
waits for: until then each step changes nothing but that count, and BUSY stays 1. Whatever the host does in a step, a command
still waiting after it waits one step less, and with none pending the engine changes nothing (10_state.md R38, R55, R64;
70_reset_and_hazards.md R365; the count in State is the model's choice, log 3, and the order within a step log 2's). -/
def Obligations.PendingCommandCommitsWhenItsLatencyEnds : Prop :=
  (∀ (n : Nat) (w : Word) (s : State), s.pend = some ⟨w, n⟩ → (∀ e ∈ s.inputs, e = .idle) →
    (∀ k : Nat, k ≤ n →
      Host.Core.run core k s = .next { s with pend := some ⟨w, n - k⟩, inputs := s.inputs.drop k })
    ∧ Host.Core.run core (n + 1) s = commitWord w { s with inputs := s.inputs.drop (n + 1) })
  ∧ (∀ (n : Nat) (w : Word) (s t : State), hostPhase s = .next t → t.pend = some ⟨w, n + 1⟩ →
    step s = .next { t with pend := some ⟨w, n⟩ })
  ∧ ∀ s t : State, hostPhase s = .next t → t.pend = none → step s = .next t

/-- While a command is pending, a host event that does not discard it leaves every register the command can read as it
was: only CTRL, the clearable flags and the port's answer can change (10_state.md R64, 20_memory.md R91). -/
def Obligations.OperandsHoldWhileCommandPends : Prop :=
  ∀ (e : HostEvent) (s t : State), s.pend ≠ none → hostEvent e s = .next t →
    t.pend = none
    ∨ t = { s with
        ieDone := t.ieDone, ieErr := t.ieErr, done := t.done, err := t.err, errcode := t.errcode, ovf := t.ovf,
        rdata := t.rdata, draws := t.draws }

/-- A soft reset takes effect at the step of the CTRL write, also while a command is pending: every register holds its reset
value, CTRL reads 0 although the write set its other bits, and the pending command does not commit
(70_reset_and_hazards.md R351, R352). A hard reset has the same effect (R350); that it is an event of one step is the
model's deduction (log 15). -/
def Obligations.ResetTakesEffectAtOnce : Prop :=
  ∀ (s : State) (e : HostEvent) (rest : List HostEvent),
    (e = .hardReset ∨ ∃ v : Word, v.getLsbD 31 = true ∧ e = .write base 4 0xF v) → s.inputs = e :: rest →
    ∃ t, step s = .next t
      ∧ t = { State.reset with
          table := t.table, draws := t.draws, inputs := rest, rdata := t.rdata, cipherReqs := t.cipherReqs }
      ∧ ctrlWord t = 0 ∧ statusWord t = 0 ∧ cfgWord t = 0 ∧ irq t = false

/-! ### The register window -/

/-- What a host read of each offset returns, the result registers while no command is pending and the others at any time,
and that a read changes no register (20_memory.md R84, R85, R86, R88, R90). That STATUS reads as its current bits also while
a command is pending is the model's choice of R90 over I1 (log 6); the answer stands in the model's own field rdata
(log 9). -/
def Obligations.ReadsReturnTheRegisterMap : Prop :=
  ∀ s : State,
    (∀ off : Nat, ∃ v n, busRead off s = { s with rdata := v, draws := n })
    ∧ (busRead 0x000 s).rdata = ctrlWord s ∧ (busRead 0x004 s).rdata = statusWord s
    ∧ (busRead 0x008 s).rdata = 0 ∧ (busRead 0x00C s).rdata = cfgWord s ∧ (busRead 0x010 s).rdata = 0x47484D31
    ∧ (busRead 0x0C0 s).rdata = s.tblIdx.setWidth 32
    ∧ (∀ k : Fin 4, (busRead (0x020 + 4 * k) s).rdata = s.din.extractLsb' (96 - 32 * k) 32)
    ∧ (s.pend = none → ∀ k : Fin 4,
        (busRead (0x030 + 4 * k) s).rdata = s.dout.extractLsb' (96 - 32 * k) 32
        ∧ (busRead (0x040 + 4 * k) s).rdata = s.chain.extractLsb' (96 - 32 * k) 32
        ∧ (busRead (0x050 + 4 * k) s).rdata = s.subkeyH.extractLsb' (96 - 32 * k) 32
        ∧ (busRead (0x060 + 4 * k) s).rdata = s.accS.extractLsb' (96 - 32 * k) 32
        ∧ (busRead (0x070 + 4 * k) s).rdata = s.j0.extractLsb' (96 - 32 * k) 32
        ∧ (busRead (0x080 + 4 * k) s).rdata = s.tag.extractLsb' (96 - 32 * k) 32
        ∧ (busRead (0x090 + 4 * k) s).rdata = s.tagexp.extractLsb' (96 - 32 * k) 32
        ∧ (s.tblv = true →
            (busRead (0x0D0 + 4 * k) s).rdata = (tableAt s.table s.tblIdx).extractLsb' (96 - 32 * k) 32))
    ∧ (s.pend = none →
        (busRead 0x0A0 s).rdata = s.aadlen.extractLsb' 32 32 ∧ (busRead 0x0A4 s).rdata = s.aadlen.extractLsb' 0 32
        ∧ (busRead 0x0A8 s).rdata = s.clen.extractLsb' 32 32 ∧ (busRead 0x0AC s).rdata = s.clen.extractLsb' 0 32
        ∧ (busRead 0x0B0 s).rdata = s.ivlen.extractLsb' 32 32 ∧ (busRead 0x0B4 s).rdata = s.ivlen.extractLsb' 0 32)
    ∧ ∀ off ∈ [0x014, 0x018, 0x01C, 0x0B8, 0x0BC, 0x0C4, 0x0C8, 0x0CC, 0x0E0, 0x0E4, 0x0E8, 0x0EC, 0x0F0, 0x0F4, 0x0F8, 0x0FC],
        (busRead off s).rdata = 0

/-- A host read of a result register while a command is pending, and of TBL_DATA before a table is built, returns a value
that nothing constrains, the free value of the next drawing (20_memory.md R90, 10_state.md R62; log 4). -/
def Obligations.UnspecifiedReadsAreFreeValues : Prop :=
  ∀ (off : Nat) (s : State), off < 256 →
    ((s.pend ≠ none ∧ (0x030 ≤ off ∧ off < 0x0B8 ∨ 0x0D0 ≤ off ∧ off < 0x0E0))
      ∨ (s.tblv = false ∧ 0x0D0 ≤ off ∧ off < 0x0E0)) →
    busRead off s = { s with rdata := Config.freeRead s.draws, draws := s.draws + 1 }

/-- What a host write of v does at each offset of the window, and that a word no command has is caught at its commit
(20_memory.md R89). -/
def Obligations.WritesFollowTheRegisterMap : Prop :=
  ∀ (v : Word) (s : State),
    (v.getLsbD 31 = false → busWrite 0x000 v s = { s with ieDone := v.getLsbD 0, ieErr := v.getLsbD 1 })
    ∧ (v.getLsbD 31 = true → ∃ T n x c, busWrite 0x000 v s =
        { State.reset with table := T, draws := n, inputs := s.inputs, rdata := x, cipherReqs := c })
    ∧ busWrite 0x004 v s =
        { s with
          done := if v.getLsbD 1 then false else s.done
          err := if v.getLsbD 2 then false else s.err
          errcode := if v.getLsbD 2 then 0 else s.errcode
          ovf := if v.getLsbD 3 then false else s.ovf }
    ∧ (s.pend = none →
        (∃ n d, busWrite 0x008 v s = { s with pend := some ⟨v, n⟩, draws := d })
        ∧ (∀ k : Fin 4, ∃ x : Block, busWrite (0x020 + 4 * k) v s = { s with din := x }
            ∧ ∀ j : Fin 4, x.extractLsb' (96 - 32 * j) 32
              = if j = k then v else s.din.extractLsb' (96 - 32 * j) 32)
        ∧ busWrite 0x0C0 v s = { s with tblIdx := v.extractLsb' 0 9 })
    ∧ (s.pend ≠ none → ∀ off ∈ [0x008, 0x020, 0x024, 0x028, 0x02C, 0x0C0], busWrite off v s = { s with ovf := true })
    ∧ (∀ off : Nat, off < 256 → off % 4 = 0 → off ∉ [0x000, 0x004, 0x008, 0x020, 0x024, 0x028, 0x02C, 0x0C0] →
        busWrite off v s = s)
    ∧ ∀ d : DecodeError, decode v = .error d → ∃ stream e, commitWord v s = .next (errorState stream e s)

/-- The model has no run for an access that is not an aligned 32-bit access in the window, or whose address lies below BASE
or above the window: the step is refused, by name; every supported access is handled at its offset (20_memory.md R81, R83;
93_implementation_defined.md I4, I5). The names of the refusals, and that an access outside the window is told so whatever
its width or alignment, are the model's (log 8). -/
def Obligations.UnsupportedAccessesAreRefused : Prop :=
  ∀ (s : State) (addr off bytes : Nat) (strobes : BitVec 4) (v : Word) (rest : List HostEvent),
    (off < 256 → (bytes ≠ 4 ∨ off % 4 ≠ 0) →
      step { s with inputs := .read (base + off) bytes :: rest } = .refused .unsupportedAccess)
    ∧ (off < 256 → (bytes ≠ 4 ∨ off % 4 ≠ 0 ∨ strobes ≠ 0xF) →
      step { s with inputs := .write (base + off) bytes strobes v :: rest } = .refused .unsupportedAccess)
    ∧ (addr < base ∨ base + 256 ≤ addr →
      step { s with inputs := .read addr bytes :: rest } = .refused .outsideWindow
      ∧ step { s with inputs := .write addr bytes strobes v :: rest } = .refused .outsideWindow)
    ∧ (off < 256 → off % 4 = 0 →
      hostPhase { s with inputs := .read (base + off) 4 :: rest } = .next (busRead off { s with inputs := rest })
      ∧ hostPhase { s with inputs := .write (base + off) 4 0xF v :: rest }
        = .next (busWrite off v { s with inputs := rest }))

/-- The layout of STATUS, with ERRCODE 0 while ERR = 0 in every state of the invariant, and of CTRL and CFG (10_state.md
R50, R56, R59), with the codes of PHASE, MODE and DIR (R44, R45) and the ERRCODE value that each error leaves in STATUS
where no error stood (60_exceptions.md R311). -/
def Obligations.StatusControlAndConfigurationWords : Prop :=
  ∀ s : State,
    ((statusWord s).getLsbD 0 = s.pend.isSome ∧ (statusWord s).getLsbD 1 = s.done ∧ (statusWord s).getLsbD 2 = s.err
      ∧ (statusWord s).getLsbD 3 = s.ovf ∧ (statusWord s).extractLsb' 4 3 = phaseBits s.phase
      ∧ (statusWord s).getLsbD 7 = s.pcl ∧ (statusWord s).extractLsb' 8 8 = s.errcode
      ∧ (statusWord s).getLsbD 16 = s.tblv ∧ (statusWord s).getLsbD 17 = s.chv ∧ (statusWord s).getLsbD 18 = s.tagchk
      ∧ (statusWord s).getLsbD 19 = s.tagok ∧ (statusWord s).extractLsb' 20 12 = 0)
    ∧ (Inv s → (statusWord s).getLsbD 2 = false → (statusWord s).extractLsb' 8 8 = 0)
    ∧ ((ctrlWord s).getLsbD 0 = s.ieDone ∧ (ctrlWord s).getLsbD 1 = s.ieErr ∧ (ctrlWord s).extractLsb' 2 30 = 0)
    ∧ ((cfgWord s).extractLsb' 0 3 = modeBits s.cfgMode ∧ (cfgWord s).getLsbD 3 = s.cfgDir.bit
      ∧ (cfgWord s).extractLsb' 4 4 = 0 ∧ (cfgWord s).extractLsb' 8 8 = s.cfgTlen
      ∧ (cfgWord s).extractLsb' 16 16 = 0)
    ∧ (phaseBits .idle = 0 ∧ phaseBits .text = 1 ∧ phaseBits .gcmIv = 2 ∧ phaseBits .gcmAad = 3 ∧ phaseBits .gcmText = 4
      ∧ phaseBits .gcmDone = 5)
    ∧ (modeBits none = 0 ∧ modeBits (some .cbc) = 1 ∧ modeBits (some .cfb) = 2 ∧ modeBits (some .ofb) = 3
      ∧ modeBits (some .ctr) = 4 ∧ modeBits (some .gcm) = 5)
    ∧ (Dir.enc.bit = false ∧ Dir.dec.bit = true)
    ∧ ∀ stream : Bool, s.err = false →
        (statusWord (errorState stream .illegalOp s)).extractLsb' 8 8 = 1
        ∧ (statusWord (errorState stream .illegalField s)).extractLsb' 8 8 = 2
        ∧ (statusWord (errorState stream .noStream s)).extractLsb' 8 8 = 3
        ∧ (statusWord (errorState stream .wrongMode s)).extractLsb' 8 8 = 4
        ∧ (statusWord (errorState stream .sequence s)).extractLsb' 8 8 = 5
        ∧ (statusWord (errorState stream .noIv s)).extractLsb' 8 8 = 6
        ∧ (statusWord (errorState stream .noPriorBlock s)).extractLsb' 8 8 = 7
        ∧ (statusWord (errorState stream .tagLenMismatch s)).extractLsb' 8 8 = 8
        ∧ (statusWord (errorState stream .noKey s)).extractLsb' 8 8 = 9

/-- A write to STATUS clears exactly the bits it names, also while a command is pending, and where a command commits in the
same step its settings win (10_state.md R51). That the commit is evaluated on the state after the write, which decides the
ERRCODE of a failing command, is the model's deduction (log 2). -/
def Obligations.StatusWriteClearsAndCommitWins : Prop :=
  (∀ (v : Word) (s : State), busWrite 0x004 v s =
    { s with
      done := if v.getLsbD 1 then false else s.done
      err := if v.getLsbD 2 then false else s.err
      errcode := if v.getLsbD 2 then 0 else s.errcode
      ovf := if v.getLsbD 3 then false else s.ovf })
  ∧ ∀ (s : State) (v w : Word) (rest : List HostEvent),
      s.inputs = .write (base + 4) 4 0xF v :: rest → s.pend = some ⟨w, 0⟩ →
      step s = commitWord w (busWrite 0x004 v { s with inputs := rest })
      ∧ ∃ t, step s = .next t ∧ t.done = true ∧ (t.err = true ∨ t.err = (s.err && !v.getLsbD 2))

/-- DONE becomes 1 at every commit, a dropped write does not set it, only the host's clearing or a reset takes it back, and
where a commit and a clearing write fall in one step DONE ends at 1 (10_state.md R53). -/
def Obligations.DoneMarksEveryCommit : Prop :=
  (∀ (w : Word) (s : State), ∃ t, commitWord w s = .next t ∧ t.done = true)
  ∧ (∀ (v : Word) (s : State), s.pend ≠ none → ∀ off ∈ [0x008, 0x020, 0x024, 0x028, 0x02C, 0x0C0],
      (busWrite off v s).done = s.done)
  ∧ (∀ (e : HostEvent) (s t : State), hostEvent e s = .next t → s.done = true → t.done = false →
      e = .hardReset ∨ (∃ v : Word, v.getLsbD 31 = true ∧ e = .write base 4 0xF v)
      ∨ ∃ v : Word, v.getLsbD 1 = true ∧ e = .write (base + 4) 4 0xF v)
  ∧ ∀ (s t : State) (v w : Word) (rest : List HostEvent),
      s.inputs = .write (base + 4) 4 0xF v :: rest → s.pend = some ⟨w, 0⟩ → step s = .next t → t.done = true

/-- irq is 1 exactly when DONE and its enable IE_DONE are, or ERR or OVF and their enable IE_ERR: every commit raises it
while IE_DONE is set, a dropped write and a failed command raise it while IE_ERR is set, and clearing the three flags or both
enables lowers it (60_exceptions.md R319, R320). -/
def Obligations.InterruptFollowsFlagsAndEnables : Prop :=
  (∀ s : State, irq s = true ↔
    (s.done = true ∧ s.ieDone = true) ∨ ((s.err = true ∨ s.ovf = true) ∧ s.ieErr = true))
  ∧ (∀ (w : Word) (s t : State), commitWord w s = .next t → s.ieDone = true → irq t = true)
  ∧ (∀ (i : Instr) (e : ErrCode) (s : State), exec i s = .next (errorState i.opcode.isStream e s) → s.ieErr = true →
      irq (errorState i.opcode.isStream e s) = true)
  ∧ (∀ (v : Word) (s : State), s.pend ≠ none → s.ieErr = true →
      ∀ off ∈ [0x008, 0x020, 0x024, 0x028, 0x02C, 0x0C0], irq (busWrite off v s) = true)
  ∧ (∀ (v : Word) (s : State), v.getLsbD 1 = true → v.getLsbD 2 = true → v.getLsbD 3 = true →
      irq (busWrite 0x004 v s) = false)
  ∧ ∀ s : State, irq (busWrite 0x000 0 s) = false

/-! ### Errors -/

/-- A command word either fails, and then nothing changes but ERR, ERRCODE, DONE, PEND and, for a stream command, PHASE
and PCL; or it succeeds, and then ERR, ERRCODE and OVF are as before (60_exceptions.md R312). -/
def Obligations.CommandsSucceedOrFailPrecisely : Prop :=
  ∀ (w : Word) (s : State),
    (∃ e, commitWord w s = .next (errorState ((opcodeOf (w.extractLsb' 0 8)).elim false Opcode.isStream) e s))
    ∨ ∃ (i : Instr) (t : State), decode w = .ok i ∧ commitWord w s = .next t
      ∧ t.err = s.err ∧ t.errcode = s.errcode ∧ t.ovf = s.ovf ∧ t.done = true ∧ t.pend = none

/-- The first error is kept: a commit while ERR = 1 leaves ERR and ERRCODE, and only the host's clearing or a reset takes
ERR back (10_state.md R52, 60_exceptions.md R314). -/
def Obligations.FirstErrorIsKept : Prop :=
  (∀ (w : Word) (s t : State), commitWord w s = .next t → s.err = true → t.err = true ∧ t.errcode = s.errcode)
  ∧ (∀ (w : Word) (s t : State), commitWord w s = .next t → s.err = false →
      t.err = false ∧ t.errcode = s.errcode ∨ t.err = true ∧ ∃ e, t.errcode = errBits e)
  ∧ ∀ (e : HostEvent) (s t : State), hostEvent e s = .next t → s.err = true → t.err = false →
      e = .hardReset ∨ (∃ v : Word, v.getLsbD 31 = true ∧ e = .write base 4 0xF v)
      ∨ ∃ v : Word, v.getLsbD 2 = true ∧ e = .write (base + 4) 4 0xF v

/-- The acceptance matrix: in every phase, with PCL either way, each stream command other than START raises the error of
its cell, or runs and leaves a stream open; and a partial block of CBC where the matrix would accept it fails with
ILLEGAL_FIELD (40_control.md R168). -/
def Obligations.AcceptanceMatrixDecidesStreamCommands : Prop :=
  ∀ (i : Instr) (s : State), Inv s → i.wf = true → i.opcode.isStream = true → i.opcode ≠ .start →
    match acceptance i.opcode s.phase s.pcl with
    | some e => exec i s = .next (errorState true e s)
    | none =>
      (∀ nb : BitVec 5, s.cfgMode = some .cbc → i = .block nb → nb ≠ 16 →
        exec i s = .next (errorState true .illegalField s))
      ∧ ((∀ nb : BitVec 5, s.cfgMode = some .cbc → i = .block nb → nb = 16) →
        ∃ t, exec i s = .next t ∧ t.err = s.err ∧ t.phase ≠ .idle)

/-- START fails with the first of its errors in the order of its rule, or begins a stream with the configuration of its
word latched (40_control.md R161, R162). -/
def Obligations.StartChecksInOrder : Prop :=
  ∀ (mode : BitVec 3) (dir : Dir) (leg : Bool) (nb : BitVec 5) (tlen : BitVec 8) (s : State),
    match startError mode dir leg nb tlen s.chv with
    | some e => exec (.start mode dir leg nb tlen) s = .next (errorState true e s)
    | none => ∃ t, exec (.start mode dir leg nb tlen) s = .next t
      ∧ modeBits t.cfgMode = mode ∧ t.cfgDir = dir
      ∧ t.cfgTlen = (if mode = 5 then (if tlen = 0 then 128 else tlen) else 0)
      ∧ t.pcl = false ∧ t.tagchk = false ∧ t.tagok = false
      ∧ t.phase = (if mode = 5 then .gcmIv else .text) ∧ t.done = true
      ∧ t.din = s.din ∧ t.dout = s.dout ∧ t.tblIdx = s.tblIdx ∧ t.ieDone = s.ieDone ∧ t.ieErr = s.ieErr
      ∧ t.err = s.err ∧ t.errcode = s.errcode ∧ t.ovf = s.ovf

/-! ### Stream control -/

/-- NOP sets DONE and nothing else; a word with NOP's OP and any other bit set fails with ILLEGAL_FIELD and leaves the
stream (40_control.md R160). -/
def Obligations.NopOnlyCompletes : Prop :=
  (∀ s : State, exec .nop s = .next { s with done := true, pend := none })
  ∧ ∀ (w : Word) (s : State), w.extractLsb' 0 8 = 0 → w ≠ 0 → commitWord w s = .next (errorState false .illegalField s)

/-- START in CBC loads CHAIN with the IV, or with LEG = 1 keeps it, and sets CHV (40_control.md R163). -/
def Obligations.StartCbcLoadsOrKeepsChain : Prop :=
  ∀ (dir : Dir) (leg : Bool) (s : State), (leg = true → s.chv = true) →
    exec (.start 1 dir leg 0 0) s = .next
      { s with
        cfgMode := some .cbc, cfgDir := dir, cfgTlen := 0, pcl := false, tagchk := false, tagok := false
        chain := if leg then s.chain else s.din
        chv := true, phase := .text, done := true, pend := none }

/-- START in CFB, OFB and CTR loads CHAIN from DIN and clears CHV (40_control.md R164). -/
def Obligations.StartKeystreamLoadsChain : Prop :=
  ∀ (mode : BitVec 3) (m : Mode) (dir : Dir) (s : State),
    (mode = 2 ∧ m = .cfb ∨ mode = 3 ∧ m = .ofb ∨ mode = 4 ∧ m = .ctr) →
    exec (.start mode dir false 0 0) s = .next
      { s with
        cfgMode := some m, cfgDir := dir, cfgTlen := 0, pcl := false, tagchk := false, tagok := false
        chain := s.din, chv := false, phase := .text, done := true, pend := none }

/-- START in GCM takes the subkey from the cipher with its table, clears the stream's registers and captures the expected
tag; then a data command before GCM_IVEND fails with NO_IV (40_control.md R165). -/
def Obligations.StartGcmDerivesSubkeyAndTable : Prop :=
  ∀ (dir : Dir) (nb : BitVec 5) (tlen : BitVec 8) (s : State),
    (tlen = 0 ∨ tlen.toNat % 8 = 0 ∧ 8 ≤ tlen.toNat ∧ tlen.toNat ≤ 128) →
    (dir = .enc → nb = 0) → (dir = .dec → 8 * nb.toNat = if tlen = 0 then 128 else tlen.toNat) →
    ∃ t, exec (.start 5 dir false nb tlen) s = .next t
      ∧ t = { s with
          cfgMode := some .gcm, cfgDir := dir, cfgTlen := if tlen = 0 then 128 else tlen, pcl := false
          tagchk := false, tagok := false, subkeyH := Config.cipherE 0, table := t.table, tblv := true, chain := 0
          chv := false, accS := 0, j0 := 0, tag := 0, aadlen := 0, clen := 0, ivlen := 0
          tagexp := if dir = .dec then mask s.din nb.toNat else 0
          phase := .gcmIv, done := true, pend := none, cipherReqs := s.cipherReqs ++ [.forward 0] }
      ∧ (∀ p n : Nat, p < 32 → n < 16 →
          tableAt t.table (BitVec.ofNat 9 (16 * p + n)) = tableEntry (Config.cipherE 0) p n)
      ∧ (∀ k : BitVec 5, nbLegal k = true → exec (.block k) t = .next (errorState true .noIv t)
          ∧ exec (.gcmAad k) t = .next (errorState true .noIv t))
      ∧ exec .gcmFinish t = .next (errorState true .noIv t)

/-- The transitions of PHASE and PCL: a command that runs moves them as the table says, a failing stream command ends the
stream, a failing command of another kind leaves them (40_control.md R167). -/
def Obligations.PhaseMovesFollowTheTable : Prop :=
  ∀ (i : Instr) (s t : State), Inv s → exec i s = .next t →
    (t.phase, t.pcl) = phaseAfter i s.phase s.pcl
    ∨ (∃ e, t = errorState i.opcode.isStream e s)
      ∧ (t.phase, t.pcl) = if i.opcode.isStream = true then (.idle, false) else (s.phase, s.pcl)

/-- Which commands can write which register, and that no command writes any other: DIN and TBL_IDX never, DOUT only the
output commands, H, T and TBLV only a GCM START and GH_LOADH, and so on (10_state.md R32 to R49, R66, R68). -/
def Obligations.RegistersChangeOnlyUnderTheirCommands : Prop :=
  ∀ (i : Instr) (s t : State), exec i s = .next t →
    t.din = s.din ∧ t.tblIdx = s.tblIdx ∧ t.ieDone = s.ieDone ∧ t.ieErr = s.ieErr ∧ t.ovf = s.ovf
    ∧ t.inputs = s.inputs ∧ t.rdata = s.rdata ∧ t.draws = s.draws
    ∧ (i.opcode ∉ [.block, .ghMulref, .ghMultbl, .ghMulx, .utInc32] → t.dout = s.dout)
    ∧ (i.opcode ∉ [.start, .block, .gcmIvend] → t.chain = s.chain)
    ∧ (i.opcode ∉ [.start, .ghLoadh] → t.subkeyH = s.subkeyH ∧ t.table = s.table ∧ t.tblv = s.tblv)
    ∧ (i.opcode ∉ [.start, .gcmIv, .gcmIvend, .gcmAad, .block, .gcmFinish, .ghClear, .ghSets, .ghStep] → t.accS = s.accS)
    ∧ (i.opcode ∉ [.start, .gcmIv, .gcmIvend] → t.j0 = s.j0)
    ∧ (i.opcode ∉ [.start, .gcmFinish] → t.tag = s.tag ∧ t.tagchk = s.tagchk ∧ t.tagok = s.tagok)
    ∧ (i.opcode ≠ .start → t.tagexp = s.tagexp ∧ t.cfgMode = s.cfgMode ∧ t.cfgDir = s.cfgDir ∧ t.cfgTlen = s.cfgTlen)
    ∧ (i.opcode ∉ [.start, .gcmAad] → t.aadlen = s.aadlen)
    ∧ (i.opcode ∉ [.start, .block] → t.clen = s.clen ∧ t.chv = s.chv)
    ∧ (i.opcode ∉ [.start, .gcmIv] → t.ivlen = s.ivlen)
    ∧ (i.opcode.isStream = false → t.phase = s.phase ∧ t.pcl = s.pcl)
    ∧ ((∃ mode dir leg nb tlen, i = .start mode dir leg nb tlen ∧ mode ≠ 5) ∨ i.opcode = .block ∧ s.cfgMode ≠ some .gcm →
        t.subkeyH = s.subkeyH ∧ t.table = s.table ∧ t.tblv = s.tblv ∧ t.accS = s.accS ∧ t.j0 = s.j0 ∧ t.tag = s.tag
        ∧ t.tagexp = s.tagexp ∧ t.aadlen = s.aadlen ∧ t.clen = s.clen ∧ t.ivlen = s.ivlen)

/-- Each command makes exactly the cipher requests of the table when it runs, and none when it fails (20_memory.md R97). -/
def Obligations.CipherRequestsFollowTheTable : Prop :=
  ∀ (i : Instr) (s t : State), Inv s → exec i s = .next t →
    t.cipherReqs = s.cipherReqs ++ requestsOf i s
    ∨ (∃ e, t = errorState i.opcode.isStream e s) ∧ t.cipherReqs = s.cipherReqs

/-! ### Chaining -/

/-- BLOCK in CBC: the result, the chaining block and the request of both directions (41_chaining.md R190, R191). -/
def Obligations.CbcBlocksChainCiphertext : Prop :=
  ∀ s : State, s.phase ≠ .idle → s.cfgMode = some .cbc → s.pcl = false →
    (s.cfgDir = .enc → exec (.block 16) s = .next
      { s with
        dout := Config.cipherE (s.din ^^^ s.chain), chain := Config.cipherE (s.din ^^^ s.chain), chv := true
        pcl := false, done := true, pend := none
        cipherReqs := s.cipherReqs ++ [.forward (s.din ^^^ s.chain)] })
    ∧ (s.cfgDir = .dec → exec (.block 16) s = .next
      { s with
        dout := Config.cipherD s.din ^^^ s.chain, chain := s.din, chv := true
        pcl := false, done := true, pend := none, cipherReqs := s.cipherReqs ++ [.inverse s.din] })

/-- BLOCK in CFB: the masked text, and the ciphertext fed back, produced or consumed (41_chaining.md R193, R194). -/
def Obligations.CfbBlocksFeedBackCiphertext : Prop :=
  ∀ (nb : BitVec 5) (s : State), 1 ≤ nb.toNat → nb.toNat ≤ 16 → s.phase ≠ .idle → s.cfgMode = some .cfb →
    s.pcl = false →
    (s.cfgDir = .enc → exec (.block nb) s = .next
      { s with
        dout := mask (s.din ^^^ Config.cipherE s.chain) nb.toNat
        chain := mask (s.din ^^^ Config.cipherE s.chain) nb.toNat
        pcl := decide (nb.toNat < 16), done := true, pend := none, cipherReqs := s.cipherReqs ++ [.forward s.chain] })
    ∧ (s.cfgDir = .dec → exec (.block nb) s = .next
      { s with
        dout := mask (s.din ^^^ Config.cipherE s.chain) nb.toNat
        chain := mask s.din nb.toNat
        pcl := decide (nb.toNat < 16), done := true, pend := none, cipherReqs := s.cipherReqs ++ [.forward s.chain] })

/-- BLOCK in OFB feeds back the whole keystream block, and in CTR advances the trailing word of the counter, in both
directions alike (41_chaining.md R195, R196). -/
def Obligations.OfbAndCtrBlocksIgnoreDirection : Prop :=
  ∀ (nb : BitVec 5) (s : State), 1 ≤ nb.toNat → nb.toNat ≤ 16 → s.phase ≠ .idle → s.pcl = false →
    (s.cfgMode = some .ofb → exec (.block nb) s = .next
      { s with
        dout := mask (s.din ^^^ Config.cipherE s.chain) nb.toNat
        chain := Config.cipherE s.chain
        pcl := decide (nb.toNat < 16), done := true, pend := none, cipherReqs := s.cipherReqs ++ [.forward s.chain] })
    ∧ (s.cfgMode = some .ctr → exec (.block nb) s = .next
      { s with
        dout := mask (s.din ^^^ Config.cipherE s.chain) nb.toNat
        chain := s.chain.extractLsb' 32 96 ++ (s.chain.extractLsb' 0 32 + 1)
        pcl := decide (nb.toNat < 16), done := true, pend := none, cipherReqs := s.cipherReqs ++ [.forward s.chain] })

/-- The CBC chaining law over any sequence of blocks, in both directions, and CHAIN after it (41_chaining.md R192). -/
def Obligations.CbcStreamsChainEveryBlock : Prop :=
  ∀ (xs : List Block) (s : State), textReady .cbc s →
    (s.cfgDir = .enc →
      outputs .block (xs.map fun x => (x, 16)) s = cbcCiphertext s.chain xs
      ∧ (feed .block (xs.map fun x => (x, 16)) s).chain = (cbcCiphertext s.chain xs).getLastD s.chain)
    ∧ (s.cfgDir = .dec →
      outputs .block (xs.map fun x => (x, 16)) s = cbcPlaintext s.chain xs
      ∧ (feed .block (xs.map fun x => (x, 16)) s).chain = xs.getLastD s.chain)

/-- The CTR keystream law: block i of a stream is added to the cipher of the counter block i steps on, modulo 2^32 in the
trailing word (41_chaining.md R198). -/
def Obligations.CtrKeystreamFollowsCounter : Prop :=
  ∀ (xs : List (Block × BitVec 5)) (s : State), textReady .ctr s → chunksLegal xs = true →
    outputs .block xs s = counterTexts s.chain xs
    ∧ (feed .block xs s).chain = counterAt s.chain xs.length

/-- The round trip of the keystream modes: a decrypting stream fed the output of an encrypting one with the same byte
counts gives back its input bytes (41_chaining.md R199). -/
def Obligations.KeystreamModesRoundTrip : Prop :=
  ∀ (m : Mode) (xs : List (Block × BitVec 5)) (s t : State), (m = .cfb ∨ m = .ofb ∨ m = .ctr) →
    textReady m s → textReady m t → s.cfgDir = .enc → t.cfgDir = .dec → t.chain = s.chain → chunksLegal xs = true →
    outputs .block (withCounts (outputs .block xs s) xs) t = padded xs

/-- The round trip of CBC, up to the cipher's own round trip: decrypting an encrypted stream gives, for each block, the
inverse cipher of the forward cipher of that block's input, the chaining block taken off (41_chaining.md R199). -/
def Obligations.CbcRoundTripsUpToCipher : Prop :=
  ∀ (xs : List Block) (s t : State), textReady .cbc s → textReady .cbc t → s.cfgDir = .enc → t.cfgDir = .dec →
    t.chain = s.chain →
    outputs .block ((outputs .block (xs.map fun x => (x, 16)) s).map fun y => (y, 16)) t
      = (xs.zip (s.chain :: cbcCiphertext s.chain xs)).map
          fun pc => Config.cipherD (Config.cipherE (pc.1 ^^^ pc.2)) ^^^ pc.2

/-- OFB and CTR streams of the two directions give the same outputs and the same CHAIN, and CFG.DIR is the only state in
which they differ (41_chaining.md R200). -/
def Obligations.DirectionDoesNotMatterInOfbAndCtr : Prop :=
  ∀ (xs : List (Block × BitVec 5)) (s : State), (s.cfgMode = some .ofb ∨ s.cfgMode = some .ctr) →
    outputs .block xs { s with cfgDir := .dec } = outputs .block xs { s with cfgDir := .enc }
    ∧ feed .block xs { s with cfgDir := .dec } = { feed .block xs { s with cfgDir := .enc } with cfgDir := .dec }

/-- The bytes of DIN from B(NB) on have no effect: two states that agree but for them agree after the command
(30_encoding.md R124). -/
def Obligations.BytesBeyondTheCountAreIgnored : Prop :=
  ∀ (nb : BitVec 5) (x : Block) (s : State), nbLegal nb = true → mask x nb.toNat = mask s.din nb.toNat →
    ∀ i ∈ [Instr.block nb, Instr.gcmIv nb, Instr.gcmAad nb, Instr.ghStep nb],
      ∃ t, exec i s = .next t ∧ exec i { s with din := x } = .next { t with din := x }

/-! ### GCM -/

/-- GCM_IV keeps the chunk in J0, folds it into S and counts its bytes (42_gcm.md R221). -/
def Obligations.GcmIvFoldsOneChunk : Prop :=
  ∀ (nb : BitVec 5) (s : State), 1 ≤ nb.toNat → nb.toNat ≤ 16 → s.phase = .gcmIv → s.cfgMode = some .gcm →
    s.pcl = false →
    exec (.gcmIv nb) s = .next
      { s with
        j0 := mask s.din nb.toNat
        accS := tmul s.table (s.accS ^^^ mask s.din nb.toNat)
        ivlen := s.ivlen + BitVec.ofNat 64 nb.toNat
        pcl := decide (nb.toNat < 16), done := true, pend := none }

/-- GCM_IVEND derives J0 by the path of the IV's length, and the first counter block, and clears S; PCL is not checked
(42_gcm.md R222). -/
def Obligations.GcmIvendDerivesFirstCounter : Prop :=
  ∀ s : State, s.phase = .gcmIv → s.cfgMode = some .gcm →
    ∃ j : Block,
      j = (if s.ivlen.toNat = 12 then s.j0.extractLsb' 32 96 ++ 1#32
        else tmul s.table (s.accS ^^^ (0#64 ++ BitVec.ofNat 64 (8 * s.ivlen.toNat))))
      ∧ exec .gcmIvend s = .next
        { s with
          j0 := j, accS := 0, chain := j.extractLsb' 32 96 ++ (j.extractLsb' 0 32 + 1)
          phase := .gcmAad, pcl := false, done := true, pend := none }

/-- GCM_AAD folds one zero-padded chunk into S and counts its bits (42_gcm.md R223). -/
def Obligations.GcmAadFoldsOneChunk : Prop :=
  ∀ (nb : BitVec 5) (s : State), 1 ≤ nb.toNat → nb.toNat ≤ 16 → s.phase = .gcmAad → s.cfgMode = some .gcm →
    s.pcl = false →
    exec (.gcmAad nb) s = .next
      { s with
        accS := tmul s.table (s.accS ^^^ mask s.din nb.toNat)
        aadlen := s.aadlen + BitVec.ofNat 64 (8 * nb.toNat)
        pcl := decide (nb.toNat < 16), done := true, pend := none }

/-- BLOCK in GCM: the text of counter mode, and the ciphertext block, produced or consumed, folded into S (42_gcm.md R224,
R225). -/
def Obligations.GcmBlocksHashCiphertext : Prop :=
  ∀ (nb : BitVec 5) (s : State), 1 ≤ nb.toNat → nb.toNat ≤ 16 → s.cfgMode = some .gcm →
    (s.phase = .gcmAad ∨ s.phase = .gcmText ∧ s.pcl = false) →
    exec (.block nb) s = .next
      { s with
        dout := mask (s.din ^^^ Config.cipherE s.chain) nb.toNat
        chain := s.chain.extractLsb' 32 96 ++ (s.chain.extractLsb' 0 32 + 1)
        accS := tmul s.table
          (s.accS ^^^ mask (if s.cfgDir = .enc then s.din ^^^ Config.cipherE s.chain else s.din) nb.toNat)
        clen := s.clen + BitVec.ofNat 64 nb.toNat
        phase := .gcmText, pcl := decide (nb.toNat < 16), done := true, pend := none
        cipherReqs := s.cipherReqs ++ [.forward s.chain] }

/-- GCM_FINISH folds the length block, forms the truncated tag from the cipher of J0, and on decryption reports whether it
equals TAGEXP (42_gcm.md R226, R229). -/
def Obligations.GcmFinishFormsTag : Prop :=
  ∀ s : State, s.cfgMode = some .gcm → (s.phase = .gcmAad ∨ s.phase = .gcmText) →
    ∃ z g : Block,
      z = tmul s.table (s.accS ^^^ (s.aadlen ++ BitVec.ofNat 64 (8 * s.clen.toNat)))
      ∧ g = mask (z ^^^ Config.cipherE s.j0) (s.cfgTlen.toNat / 8)
      ∧ exec .gcmFinish s = .next
        { s with
          accS := z, tag := g
          tagchk := if s.cfgDir = .dec then true else s.tagchk
          tagok := if s.cfgDir = .dec then decide (g = s.tagexp) else s.tagok
          phase := .gcmDone, pcl := false, done := true, pend := none
          cipherReqs := s.cipherReqs ++ [.forward s.j0] }

/-- The tag keeps its leftmost CFG.TLEN bits and is zero below them, and on decryption TAGOK = 1 exactly when those bits
agree with TAGEXP's; a mismatch sets no error (42_gcm.md R227, R228). -/
def Obligations.TagIsTruncatedAndComparedByItsLeadingBits : Prop :=
  ∀ s t : State, Inv s → s.cfgMode = some .gcm → (s.phase = .gcmAad ∨ s.phase = .gcmText) →
    exec .gcmFinish s = .next t →
    (∀ k : Nat, k < 128 → t.tag.getLsbD (127 - k) =
      (decide (k < s.cfgTlen.toNat) && (t.accS ^^^ Config.cipherE s.j0).getLsbD (127 - k)))
    ∧ (s.cfgDir = .dec → t.tagchk = true ∧ (t.tagok = true ↔ ∀ k : Nat, k < s.cfgTlen.toNat →
        (t.accS ^^^ Config.cipherE s.j0).getLsbD (127 - k) = s.tagexp.getLsbD (127 - k)))
    ∧ t.err = s.err ∧ t.errcode = s.errcode

/-- The J0 law: after the IV's chunks and GCM_IVEND, J0 is the IV and a 1 for 12 bytes, else the GHASH of the padded IV
and its length block, and CHAIN is the next counter block (42_gcm.md R230). -/
def Obligations.PreCounterBlockOfAnyIv : Prop :=
  ∀ (xs : List (Block × BitVec 5)) (s : State), Inv s → s.phase = .gcmIv → s.pcl = false → s.accS = 0 → s.ivlen = 0 →
    s.cfgMode = some .gcm → chunksLegal xs = true → totalBytes xs < 2 ^ 64 →
    ∃ t, exec .gcmIvend (feed .gcmIv xs s) = .next t
      ∧ (totalBytes xs = 12 → ∃ x, xs = [(x, 12)] ∧ t.j0 = x.extractLsb' 32 96 ++ 1#32)
      ∧ (totalBytes xs ≠ 12 →
          t.j0 = ghash s.subkeyH 0 (padded xs ++ [0#64 ++ BitVec.ofNat 64 (8 * totalBytes xs)]))
      ∧ t.chain = t.j0.extractLsb' 32 96 ++ (t.j0.extractLsb' 0 32 + 1)
      ∧ t.accS = 0 ∧ t.phase = .gcmAad

/-- The stream law of an encrypting GCM stream after its IV: the ciphertext is counter mode from CHAIN on, S ends as the
GHASH of the padded AAD, the padded ciphertext and the length block, the tag is its sum with the cipher of J0, and one
request is made for each text block and one for the tag (42_gcm.md R231). -/
def Obligations.GcmEncryptStreamLaw : Prop :=
  ∀ (aad text : List (Block × BitVec 5)) (s : State), Inv s → s.phase = .gcmAad → s.cfgMode = some .gcm →
    s.cfgDir = .enc → s.pcl = false → s.accS = 0 → s.aadlen = 0 → s.clen = 0 →
    chunksLegal aad = true → chunksLegal text = true →
    outputs .block text (feed .gcmAad aad s) = counterTexts s.chain text
    ∧ ∃ t, exec .gcmFinish (feed .block text (feed .gcmAad aad s)) = .next t
      ∧ t.accS = ghash s.subkeyH 0 (padded aad ++ counterTexts s.chain text
          ++ [BitVec.ofNat 64 (8 * totalBytes aad) ++ BitVec.ofNat 64 (8 * totalBytes text)])
      ∧ t.tag = mask (t.accS ^^^ Config.cipherE s.j0) (s.cfgTlen.toNat / 8)
      ∧ t.cipherReqs.length = s.cipherReqs.length + text.length + 1
      ∧ ∀ r ∈ t.cipherReqs, r ∈ s.cipherReqs ∨ ∃ x, r = .forward x

/-- A decrypting stream with the registers, AAD and ciphertext of an encrypting one gives back its text, the same S and
the same tag, and accepts exactly that tag (42_gcm.md R225, R228, R232). -/
def Obligations.GcmDecryptAcceptsExactlyTheEncryptTag : Prop :=
  ∀ (aad text : List (Block × BitVec 5)) (x : Block) (s t : State), Inv s → s.phase = .gcmAad →
    s.cfgMode = some .gcm → s.cfgDir = .enc → s.pcl = false → chunksLegal aad = true → chunksLegal text = true →
    exec .gcmFinish (feed .block text (feed .gcmAad aad s)) = .next t →
    ∃ u, exec .gcmFinish
        (feed .block (withCounts (outputs .block text (feed .gcmAad aad s)) text)
          (feed .gcmAad aad { s with cfgDir := .dec, tagexp := x })) = .next u
      ∧ outputs .block (withCounts (outputs .block text (feed .gcmAad aad s)) text)
          (feed .gcmAad aad { s with cfgDir := .dec, tagexp := x }) = padded text
      ∧ u.accS = t.accS ∧ u.tag = t.tag ∧ u.tagchk = true ∧ u.tagok = decide (x = t.tag)

/-! ### The multiplier and the GHASH core -/

/-- The table law: with a valid table the table product is the reference product with H (43_galois.md R267). -/
def Obligations.TableProductIsReferenceProduct : Prop :=
  ∀ (s : State) (x : Block), Inv s → s.tblv = true → tmul s.table x = gmulRef x s.subkeyH

/-- The reference product distributes over XOR on both sides, has 0x80…0 as its identity and 0 as its absorbing element,
and mulx is its product with 0x40…0 (43_galois.md R275, in part). -/
def Obligations.ReferenceProductIsBilinear : Prop :=
  (∀ x y z : Block, gmulRef (x ^^^ y) z = gmulRef x z ^^^ gmulRef y z)
  ∧ (∀ x y z : Block, gmulRef x (y ^^^ z) = gmulRef x y ^^^ gmulRef x z)
  ∧ (∀ y : Block, gmulRef 0x80000000000000000000000000000000 y = y)
  ∧ (∀ y : Block, gmulRef 0 y = 0 ∧ gmulRef y 0 = 0)
  ∧ ∀ v : Block, mulx v = gmulRef 0x40000000000000000000000000000000 v

/-- The reference product is commutative (43_galois.md R275, in part). -/
def Obligations.ReferenceProductCommutes : Prop :=
  ∀ x y : Block, gmulRef x y = gmulRef y x

/-- The reference product is associative (43_galois.md R275, in part). -/
def Obligations.ReferenceProductAssociates : Prop :=
  ∀ x y z : Block, gmulRef (gmulRef x y) z = gmulRef x (gmulRef y z)

/-- The nibble at position p, taken from the block, is the nibble 7 - (p mod 8) of the word p div 8 (43_galois.md R264). -/
def Obligations.NibblesOfABlockAreNibblesOfItsWords : Prop :=
  ∀ (x : Block) (p : Nat) (hp : p < 32),
    nib x p = x.extractLsb' (124 - 4 * p) 4
    ∧ (nib x p).setWidth 32 = (blockWord x ⟨p / 8, by omega⟩ >>> (4 * (7 - p % 8))) &&& 0xF

/-- GH_LOADH loads H, writes every entry of the table and sets TBLV, and leaves S; a zero subkey makes a table whose
product is always zero (43_galois.md R268). -/
def Obligations.GhLoadhBuildsTheTable : Prop :=
  ∀ s : State, ∃ t, exec .ghLoadh s = .next t
    ∧ t = { s with subkeyH := s.din, table := t.table, tblv := true, done := true, pend := none }
    ∧ (∀ p n : Nat, p < 32 → n < 16 → tableAt t.table (BitVec.ofNat 9 (16 * p + n)) = tableEntry s.din p n)
    ∧ (s.din = 0 → ∀ x, tmul t.table x = 0)

/-- GH_CLEAR, GH_SETS, GH_MULX and UT_INC32 run in every state, with their one result (43_galois.md R269, R270, R274;
44_utilities.md R301). -/
def Obligations.PlainCommandsWriteTheirOneResult : Prop :=
  ∀ s : State,
    exec .ghClear s = .next { s with accS := 0, done := true, pend := none }
    ∧ exec .ghSets s = .next { s with accS := s.din, done := true, pend := none }
    ∧ exec .ghMulx s = .next
      { s with
        dout := (s.din >>> 1) ^^^ (if s.din.getLsbD 0 then 0xE1000000000000000000000000000000 else 0)
        done := true, pend := none }
    ∧ exec .utInc32 s = .next
      { s with
        dout := s.din.extractLsb' 32 96 ++ BitVec.ofNat 32 ((s.din.extractLsb' 0 32).toNat + 1)
        done := true, pend := none }

/-- GH_STEP folds one masked block into S when a table is valid and fails with NO_KEY when none is (43_galois.md R271). -/
def Obligations.GhStepFoldsOneBlock : Prop :=
  ∀ (nb : BitVec 5) (s : State), 1 ≤ nb.toNat → nb.toNat ≤ 16 →
    (s.tblv = true → exec (.ghStep nb) s = .next
      { s with accS := tmul s.table (s.accS ^^^ mask s.din nb.toNat), done := true, pend := none })
    ∧ (s.tblv = false → exec (.ghStep nb) s = .next (errorState false .noKey s))

/-- GH_MULREF gives the reference product with H and GH_MULTBL the table product, both fail with NO_KEY when no table is
valid, and in every state of the invariant the two give one and the same state (43_galois.md R272, R273). -/
def Obligations.ProductCommandsAgree : Prop :=
  ∀ s : State,
    (s.tblv = true →
      exec .ghMulref s = .next { s with dout := gmulRef s.din s.subkeyH, done := true, pend := none }
      ∧ exec .ghMultbl s = .next { s with dout := tmul s.table s.din, done := true, pend := none })
    ∧ (s.tblv = false → exec .ghMulref s = .next (errorState false .noKey s)
      ∧ exec .ghMultbl s = .next (errorState false .noKey s))
    ∧ (Inv s → exec .ghMulref s = exec .ghMultbl s)

/-! ### The invariant -/

/-- Reset leaves every register at its reset value, and the invariant holds there (10_state.md R67). -/
def Obligations.ResetMeetsInvariant : Prop :=
  Inv State.reset
  ∧ ctrlWord State.reset = 0 ∧ statusWord State.reset = 0 ∧ cfgWord State.reset = 0
  ∧ State.reset.pend = none ∧ State.reset.tblIdx = 0
  ∧ [State.reset.din, State.reset.dout, State.reset.chain, State.reset.subkeyH, State.reset.accS, State.reset.j0,
      State.reset.tag, State.reset.tagexp] = List.replicate 8 0
  ∧ [State.reset.aadlen, State.reset.clen, State.reset.ivlen] = List.replicate 3 0

/-- Every step keeps the invariant: the table stays that of H, a GCM phase belongs to a GCM stream, CHV says CBC, the
error code says ERR, the tag flags say the comparison, the tags stay truncated (10_state.md R44 to R49, R63). -/
def Obligations.EveryStepKeepsInvariant : Prop :=
  ∀ s t : State, Inv s → step s = .next t → Inv t

end
end

