-- ==== Sys2Proof/Laws/State.lean ====
section
/-! SUPPORT. One lemma per field per update: what each named update of the state leaves in each field. All hold by
definition. -/

namespace Sys2Proof.Machine

/-! ### succeed -/

section

variable (s : State)

@[simp] theorem succeed_ieDone : (succeed s).ieDone = s.ieDone := rfl
@[simp] theorem succeed_ieErr : (succeed s).ieErr = s.ieErr := rfl
@[simp] theorem succeed_done : (succeed s).done = true := rfl
@[simp] theorem succeed_err : (succeed s).err = s.err := rfl
@[simp] theorem succeed_ovf : (succeed s).ovf = s.ovf := rfl
@[simp] theorem succeed_errcode : (succeed s).errcode = s.errcode := rfl
@[simp] theorem succeed_phase : (succeed s).phase = s.phase := rfl
@[simp] theorem succeed_pcl : (succeed s).pcl = s.pcl := rfl
@[simp] theorem succeed_chv : (succeed s).chv = s.chv := rfl
@[simp] theorem succeed_tblv : (succeed s).tblv = s.tblv := rfl
@[simp] theorem succeed_tagchk : (succeed s).tagchk = s.tagchk := rfl
@[simp] theorem succeed_tagok : (succeed s).tagok = s.tagok := rfl
@[simp] theorem succeed_cfgMode : (succeed s).cfgMode = s.cfgMode := rfl
@[simp] theorem succeed_cfgDir : (succeed s).cfgDir = s.cfgDir := rfl
@[simp] theorem succeed_cfgTlen : (succeed s).cfgTlen = s.cfgTlen := rfl
@[simp] theorem succeed_din : (succeed s).din = s.din := rfl
@[simp] theorem succeed_dout : (succeed s).dout = s.dout := rfl
@[simp] theorem succeed_chain : (succeed s).chain = s.chain := rfl
@[simp] theorem succeed_subkeyH : (succeed s).subkeyH = s.subkeyH := rfl
@[simp] theorem succeed_accS : (succeed s).accS = s.accS := rfl
@[simp] theorem succeed_j0 : (succeed s).j0 = s.j0 := rfl
@[simp] theorem succeed_tag : (succeed s).tag = s.tag := rfl
@[simp] theorem succeed_tagexp : (succeed s).tagexp = s.tagexp := rfl
@[simp] theorem succeed_aadlen : (succeed s).aadlen = s.aadlen := rfl
@[simp] theorem succeed_clen : (succeed s).clen = s.clen := rfl
@[simp] theorem succeed_ivlen : (succeed s).ivlen = s.ivlen := rfl
@[simp] theorem succeed_tblIdx : (succeed s).tblIdx = s.tblIdx := rfl
@[simp] theorem succeed_table : (succeed s).table = s.table := rfl
@[simp] theorem succeed_pend : (succeed s).pend = none := rfl
@[simp] theorem succeed_inputs : (succeed s).inputs = s.inputs := rfl
@[simp] theorem succeed_rdata : (succeed s).rdata = s.rdata := rfl
@[simp] theorem succeed_draws : (succeed s).draws = s.draws := rfl
@[simp] theorem succeed_cipherReqs : (succeed s).cipherReqs = s.cipherReqs := rfl

end

/-! ### raiseError -/

section

variable (stream : Bool) (e : ErrCode) (s : State)

@[simp] theorem raiseError_ieDone : (raiseError stream e s).ieDone = s.ieDone := rfl
@[simp] theorem raiseError_ieErr : (raiseError stream e s).ieErr = s.ieErr := rfl
@[simp] theorem raiseError_done : (raiseError stream e s).done = true := rfl
@[simp] theorem raiseError_err : (raiseError stream e s).err = true := rfl
@[simp] theorem raiseError_ovf : (raiseError stream e s).ovf = s.ovf := rfl
@[simp] theorem raiseError_errcode : (raiseError stream e s).errcode = if s.err then s.errcode else errBits e := rfl
@[simp] theorem raiseError_phase : (raiseError stream e s).phase = if stream then .idle else s.phase := rfl
@[simp] theorem raiseError_pcl : (raiseError stream e s).pcl = if stream then false else s.pcl := rfl
@[simp] theorem raiseError_chv : (raiseError stream e s).chv = s.chv := rfl
@[simp] theorem raiseError_tblv : (raiseError stream e s).tblv = s.tblv := rfl
@[simp] theorem raiseError_tagchk : (raiseError stream e s).tagchk = s.tagchk := rfl
@[simp] theorem raiseError_tagok : (raiseError stream e s).tagok = s.tagok := rfl
@[simp] theorem raiseError_cfgMode : (raiseError stream e s).cfgMode = s.cfgMode := rfl
@[simp] theorem raiseError_cfgDir : (raiseError stream e s).cfgDir = s.cfgDir := rfl
@[simp] theorem raiseError_cfgTlen : (raiseError stream e s).cfgTlen = s.cfgTlen := rfl
@[simp] theorem raiseError_din : (raiseError stream e s).din = s.din := rfl
@[simp] theorem raiseError_dout : (raiseError stream e s).dout = s.dout := rfl
@[simp] theorem raiseError_chain : (raiseError stream e s).chain = s.chain := rfl
@[simp] theorem raiseError_subkeyH : (raiseError stream e s).subkeyH = s.subkeyH := rfl
@[simp] theorem raiseError_accS : (raiseError stream e s).accS = s.accS := rfl
@[simp] theorem raiseError_j0 : (raiseError stream e s).j0 = s.j0 := rfl
@[simp] theorem raiseError_tag : (raiseError stream e s).tag = s.tag := rfl
@[simp] theorem raiseError_tagexp : (raiseError stream e s).tagexp = s.tagexp := rfl
@[simp] theorem raiseError_aadlen : (raiseError stream e s).aadlen = s.aadlen := rfl
@[simp] theorem raiseError_clen : (raiseError stream e s).clen = s.clen := rfl
@[simp] theorem raiseError_ivlen : (raiseError stream e s).ivlen = s.ivlen := rfl
@[simp] theorem raiseError_tblIdx : (raiseError stream e s).tblIdx = s.tblIdx := rfl
@[simp] theorem raiseError_table : (raiseError stream e s).table = s.table := rfl
@[simp] theorem raiseError_pend : (raiseError stream e s).pend = none := rfl
@[simp] theorem raiseError_inputs : (raiseError stream e s).inputs = s.inputs := rfl
@[simp] theorem raiseError_rdata : (raiseError stream e s).rdata = s.rdata := rfl
@[simp] theorem raiseError_draws : (raiseError stream e s).draws = s.draws := rfl
@[simp] theorem raiseError_cipherReqs : (raiseError stream e s).cipherReqs = s.cipherReqs := rfl

end

/-! ### ghashStep -/

section

variable (x : Block) (s : State)

@[simp] theorem ghashStep_ieDone : (ghashStep x s).ieDone = s.ieDone := rfl
@[simp] theorem ghashStep_ieErr : (ghashStep x s).ieErr = s.ieErr := rfl
@[simp] theorem ghashStep_done : (ghashStep x s).done = s.done := rfl
@[simp] theorem ghashStep_err : (ghashStep x s).err = s.err := rfl
@[simp] theorem ghashStep_ovf : (ghashStep x s).ovf = s.ovf := rfl
@[simp] theorem ghashStep_errcode : (ghashStep x s).errcode = s.errcode := rfl
@[simp] theorem ghashStep_phase : (ghashStep x s).phase = s.phase := rfl
@[simp] theorem ghashStep_pcl : (ghashStep x s).pcl = s.pcl := rfl
@[simp] theorem ghashStep_chv : (ghashStep x s).chv = s.chv := rfl
@[simp] theorem ghashStep_tblv : (ghashStep x s).tblv = s.tblv := rfl
@[simp] theorem ghashStep_tagchk : (ghashStep x s).tagchk = s.tagchk := rfl
@[simp] theorem ghashStep_tagok : (ghashStep x s).tagok = s.tagok := rfl
@[simp] theorem ghashStep_cfgMode : (ghashStep x s).cfgMode = s.cfgMode := rfl
@[simp] theorem ghashStep_cfgDir : (ghashStep x s).cfgDir = s.cfgDir := rfl
@[simp] theorem ghashStep_cfgTlen : (ghashStep x s).cfgTlen = s.cfgTlen := rfl
@[simp] theorem ghashStep_din : (ghashStep x s).din = s.din := rfl
@[simp] theorem ghashStep_dout : (ghashStep x s).dout = s.dout := rfl
@[simp] theorem ghashStep_chain : (ghashStep x s).chain = s.chain := rfl
@[simp] theorem ghashStep_subkeyH : (ghashStep x s).subkeyH = s.subkeyH := rfl
@[simp] theorem ghashStep_accS : (ghashStep x s).accS = tmul s.table (s.accS ^^^ x) := rfl
@[simp] theorem ghashStep_j0 : (ghashStep x s).j0 = s.j0 := rfl
@[simp] theorem ghashStep_tag : (ghashStep x s).tag = s.tag := rfl
@[simp] theorem ghashStep_tagexp : (ghashStep x s).tagexp = s.tagexp := rfl
@[simp] theorem ghashStep_aadlen : (ghashStep x s).aadlen = s.aadlen := rfl
@[simp] theorem ghashStep_clen : (ghashStep x s).clen = s.clen := rfl
@[simp] theorem ghashStep_ivlen : (ghashStep x s).ivlen = s.ivlen := rfl
@[simp] theorem ghashStep_tblIdx : (ghashStep x s).tblIdx = s.tblIdx := rfl
@[simp] theorem ghashStep_table : (ghashStep x s).table = s.table := rfl
@[simp] theorem ghashStep_pend : (ghashStep x s).pend = s.pend := rfl
@[simp] theorem ghashStep_inputs : (ghashStep x s).inputs = s.inputs := rfl
@[simp] theorem ghashStep_rdata : (ghashStep x s).rdata = s.rdata := rfl
@[simp] theorem ghashStep_draws : (ghashStep x s).draws = s.draws := rfl
@[simp] theorem ghashStep_cipherReqs : (ghashStep x s).cipherReqs = s.cipherReqs := rfl

end

/-! ### loadSubkey -/

section

variable (h : Block) (s : State)

@[simp] theorem loadSubkey_ieDone : (loadSubkey h s).ieDone = s.ieDone := rfl
@[simp] theorem loadSubkey_ieErr : (loadSubkey h s).ieErr = s.ieErr := rfl
@[simp] theorem loadSubkey_done : (loadSubkey h s).done = s.done := rfl
@[simp] theorem loadSubkey_err : (loadSubkey h s).err = s.err := rfl
@[simp] theorem loadSubkey_ovf : (loadSubkey h s).ovf = s.ovf := rfl
@[simp] theorem loadSubkey_errcode : (loadSubkey h s).errcode = s.errcode := rfl
@[simp] theorem loadSubkey_phase : (loadSubkey h s).phase = s.phase := rfl
@[simp] theorem loadSubkey_pcl : (loadSubkey h s).pcl = s.pcl := rfl
@[simp] theorem loadSubkey_chv : (loadSubkey h s).chv = s.chv := rfl
@[simp] theorem loadSubkey_tblv : (loadSubkey h s).tblv = true := rfl
@[simp] theorem loadSubkey_tagchk : (loadSubkey h s).tagchk = s.tagchk := rfl
@[simp] theorem loadSubkey_tagok : (loadSubkey h s).tagok = s.tagok := rfl
@[simp] theorem loadSubkey_cfgMode : (loadSubkey h s).cfgMode = s.cfgMode := rfl
@[simp] theorem loadSubkey_cfgDir : (loadSubkey h s).cfgDir = s.cfgDir := rfl
@[simp] theorem loadSubkey_cfgTlen : (loadSubkey h s).cfgTlen = s.cfgTlen := rfl
@[simp] theorem loadSubkey_din : (loadSubkey h s).din = s.din := rfl
@[simp] theorem loadSubkey_dout : (loadSubkey h s).dout = s.dout := rfl
@[simp] theorem loadSubkey_chain : (loadSubkey h s).chain = s.chain := rfl
@[simp] theorem loadSubkey_subkeyH : (loadSubkey h s).subkeyH = h := rfl
@[simp] theorem loadSubkey_accS : (loadSubkey h s).accS = s.accS := rfl
@[simp] theorem loadSubkey_j0 : (loadSubkey h s).j0 = s.j0 := rfl
@[simp] theorem loadSubkey_tag : (loadSubkey h s).tag = s.tag := rfl
@[simp] theorem loadSubkey_tagexp : (loadSubkey h s).tagexp = s.tagexp := rfl
@[simp] theorem loadSubkey_aadlen : (loadSubkey h s).aadlen = s.aadlen := rfl
@[simp] theorem loadSubkey_clen : (loadSubkey h s).clen = s.clen := rfl
@[simp] theorem loadSubkey_ivlen : (loadSubkey h s).ivlen = s.ivlen := rfl
@[simp] theorem loadSubkey_tblIdx : (loadSubkey h s).tblIdx = s.tblIdx := rfl
@[simp] theorem loadSubkey_table : (loadSubkey h s).table = buildTable h := rfl
@[simp] theorem loadSubkey_pend : (loadSubkey h s).pend = s.pend := rfl
@[simp] theorem loadSubkey_inputs : (loadSubkey h s).inputs = s.inputs := rfl
@[simp] theorem loadSubkey_rdata : (loadSubkey h s).rdata = s.rdata := rfl
@[simp] theorem loadSubkey_draws : (loadSubkey h s).draws = s.draws := rfl
@[simp] theorem loadSubkey_cipherReqs : (loadSubkey h s).cipherReqs = s.cipherReqs := rfl

end

/-! ### requestForward -/

section

variable (x : Block) (s : State)

@[simp] theorem requestForward_ieDone : (requestForward x s).ieDone = s.ieDone := rfl
@[simp] theorem requestForward_ieErr : (requestForward x s).ieErr = s.ieErr := rfl
@[simp] theorem requestForward_done : (requestForward x s).done = s.done := rfl
@[simp] theorem requestForward_err : (requestForward x s).err = s.err := rfl
@[simp] theorem requestForward_ovf : (requestForward x s).ovf = s.ovf := rfl
@[simp] theorem requestForward_errcode : (requestForward x s).errcode = s.errcode := rfl
@[simp] theorem requestForward_phase : (requestForward x s).phase = s.phase := rfl
@[simp] theorem requestForward_pcl : (requestForward x s).pcl = s.pcl := rfl
@[simp] theorem requestForward_chv : (requestForward x s).chv = s.chv := rfl
@[simp] theorem requestForward_tblv : (requestForward x s).tblv = s.tblv := rfl
@[simp] theorem requestForward_tagchk : (requestForward x s).tagchk = s.tagchk := rfl
@[simp] theorem requestForward_tagok : (requestForward x s).tagok = s.tagok := rfl
@[simp] theorem requestForward_cfgMode : (requestForward x s).cfgMode = s.cfgMode := rfl
@[simp] theorem requestForward_cfgDir : (requestForward x s).cfgDir = s.cfgDir := rfl
@[simp] theorem requestForward_cfgTlen : (requestForward x s).cfgTlen = s.cfgTlen := rfl
@[simp] theorem requestForward_din : (requestForward x s).din = s.din := rfl
@[simp] theorem requestForward_dout : (requestForward x s).dout = s.dout := rfl
@[simp] theorem requestForward_chain : (requestForward x s).chain = s.chain := rfl
@[simp] theorem requestForward_subkeyH : (requestForward x s).subkeyH = s.subkeyH := rfl
@[simp] theorem requestForward_accS : (requestForward x s).accS = s.accS := rfl
@[simp] theorem requestForward_j0 : (requestForward x s).j0 = s.j0 := rfl
@[simp] theorem requestForward_tag : (requestForward x s).tag = s.tag := rfl
@[simp] theorem requestForward_tagexp : (requestForward x s).tagexp = s.tagexp := rfl
@[simp] theorem requestForward_aadlen : (requestForward x s).aadlen = s.aadlen := rfl
@[simp] theorem requestForward_clen : (requestForward x s).clen = s.clen := rfl
@[simp] theorem requestForward_ivlen : (requestForward x s).ivlen = s.ivlen := rfl
@[simp] theorem requestForward_tblIdx : (requestForward x s).tblIdx = s.tblIdx := rfl
@[simp] theorem requestForward_table : (requestForward x s).table = s.table := rfl
@[simp] theorem requestForward_pend : (requestForward x s).pend = s.pend := rfl
@[simp] theorem requestForward_inputs : (requestForward x s).inputs = s.inputs := rfl
@[simp] theorem requestForward_rdata : (requestForward x s).rdata = s.rdata := rfl
@[simp] theorem requestForward_draws : (requestForward x s).draws = s.draws := rfl
@[simp] theorem requestForward_cipherReqs : (requestForward x s).cipherReqs = s.cipherReqs ++ [.forward x] := rfl

end

/-! ### requestInverse -/

section

variable (x : Block) (s : State)

@[simp] theorem requestInverse_ieDone : (requestInverse x s).ieDone = s.ieDone := rfl
@[simp] theorem requestInverse_ieErr : (requestInverse x s).ieErr = s.ieErr := rfl
@[simp] theorem requestInverse_done : (requestInverse x s).done = s.done := rfl
@[simp] theorem requestInverse_err : (requestInverse x s).err = s.err := rfl
@[simp] theorem requestInverse_ovf : (requestInverse x s).ovf = s.ovf := rfl
@[simp] theorem requestInverse_errcode : (requestInverse x s).errcode = s.errcode := rfl
@[simp] theorem requestInverse_phase : (requestInverse x s).phase = s.phase := rfl
@[simp] theorem requestInverse_pcl : (requestInverse x s).pcl = s.pcl := rfl
@[simp] theorem requestInverse_chv : (requestInverse x s).chv = s.chv := rfl
@[simp] theorem requestInverse_tblv : (requestInverse x s).tblv = s.tblv := rfl
@[simp] theorem requestInverse_tagchk : (requestInverse x s).tagchk = s.tagchk := rfl
@[simp] theorem requestInverse_tagok : (requestInverse x s).tagok = s.tagok := rfl
@[simp] theorem requestInverse_cfgMode : (requestInverse x s).cfgMode = s.cfgMode := rfl
@[simp] theorem requestInverse_cfgDir : (requestInverse x s).cfgDir = s.cfgDir := rfl
@[simp] theorem requestInverse_cfgTlen : (requestInverse x s).cfgTlen = s.cfgTlen := rfl
@[simp] theorem requestInverse_din : (requestInverse x s).din = s.din := rfl
@[simp] theorem requestInverse_dout : (requestInverse x s).dout = s.dout := rfl
@[simp] theorem requestInverse_chain : (requestInverse x s).chain = s.chain := rfl
@[simp] theorem requestInverse_subkeyH : (requestInverse x s).subkeyH = s.subkeyH := rfl
@[simp] theorem requestInverse_accS : (requestInverse x s).accS = s.accS := rfl
@[simp] theorem requestInverse_j0 : (requestInverse x s).j0 = s.j0 := rfl
@[simp] theorem requestInverse_tag : (requestInverse x s).tag = s.tag := rfl
@[simp] theorem requestInverse_tagexp : (requestInverse x s).tagexp = s.tagexp := rfl
@[simp] theorem requestInverse_aadlen : (requestInverse x s).aadlen = s.aadlen := rfl
@[simp] theorem requestInverse_clen : (requestInverse x s).clen = s.clen := rfl
@[simp] theorem requestInverse_ivlen : (requestInverse x s).ivlen = s.ivlen := rfl
@[simp] theorem requestInverse_tblIdx : (requestInverse x s).tblIdx = s.tblIdx := rfl
@[simp] theorem requestInverse_table : (requestInverse x s).table = s.table := rfl
@[simp] theorem requestInverse_pend : (requestInverse x s).pend = s.pend := rfl
@[simp] theorem requestInverse_inputs : (requestInverse x s).inputs = s.inputs := rfl
@[simp] theorem requestInverse_rdata : (requestInverse x s).rdata = s.rdata := rfl
@[simp] theorem requestInverse_draws : (requestInverse x s).draws = s.draws := rfl
@[simp] theorem requestInverse_cipherReqs : (requestInverse x s).cipherReqs = s.cipherReqs ++ [.inverse x] := rfl

end

/-! ### overrun -/

section

variable (s : State)

@[simp] theorem overrun_ieDone : (overrun s).ieDone = s.ieDone := rfl
@[simp] theorem overrun_ieErr : (overrun s).ieErr = s.ieErr := rfl
@[simp] theorem overrun_done : (overrun s).done = s.done := rfl
@[simp] theorem overrun_err : (overrun s).err = s.err := rfl
@[simp] theorem overrun_ovf : (overrun s).ovf = true := rfl
@[simp] theorem overrun_errcode : (overrun s).errcode = s.errcode := rfl
@[simp] theorem overrun_phase : (overrun s).phase = s.phase := rfl
@[simp] theorem overrun_pcl : (overrun s).pcl = s.pcl := rfl
@[simp] theorem overrun_chv : (overrun s).chv = s.chv := rfl
@[simp] theorem overrun_tblv : (overrun s).tblv = s.tblv := rfl
@[simp] theorem overrun_tagchk : (overrun s).tagchk = s.tagchk := rfl
@[simp] theorem overrun_tagok : (overrun s).tagok = s.tagok := rfl
@[simp] theorem overrun_cfgMode : (overrun s).cfgMode = s.cfgMode := rfl
@[simp] theorem overrun_cfgDir : (overrun s).cfgDir = s.cfgDir := rfl
@[simp] theorem overrun_cfgTlen : (overrun s).cfgTlen = s.cfgTlen := rfl
@[simp] theorem overrun_din : (overrun s).din = s.din := rfl
@[simp] theorem overrun_dout : (overrun s).dout = s.dout := rfl
@[simp] theorem overrun_chain : (overrun s).chain = s.chain := rfl
@[simp] theorem overrun_subkeyH : (overrun s).subkeyH = s.subkeyH := rfl
@[simp] theorem overrun_accS : (overrun s).accS = s.accS := rfl
@[simp] theorem overrun_j0 : (overrun s).j0 = s.j0 := rfl
@[simp] theorem overrun_tag : (overrun s).tag = s.tag := rfl
@[simp] theorem overrun_tagexp : (overrun s).tagexp = s.tagexp := rfl
@[simp] theorem overrun_aadlen : (overrun s).aadlen = s.aadlen := rfl
@[simp] theorem overrun_clen : (overrun s).clen = s.clen := rfl
@[simp] theorem overrun_ivlen : (overrun s).ivlen = s.ivlen := rfl
@[simp] theorem overrun_tblIdx : (overrun s).tblIdx = s.tblIdx := rfl
@[simp] theorem overrun_table : (overrun s).table = s.table := rfl
@[simp] theorem overrun_pend : (overrun s).pend = s.pend := rfl
@[simp] theorem overrun_inputs : (overrun s).inputs = s.inputs := rfl
@[simp] theorem overrun_rdata : (overrun s).rdata = s.rdata := rfl
@[simp] theorem overrun_draws : (overrun s).draws = s.draws := rfl
@[simp] theorem overrun_cipherReqs : (overrun s).cipherReqs = s.cipherReqs := rfl

end

/-! ### issue -/

section

variable (w : Word) (s : State)

@[simp] theorem issue_ieDone : (issue w s).ieDone = s.ieDone := rfl
@[simp] theorem issue_ieErr : (issue w s).ieErr = s.ieErr := rfl
@[simp] theorem issue_done : (issue w s).done = s.done := rfl
@[simp] theorem issue_err : (issue w s).err = s.err := rfl
@[simp] theorem issue_ovf : (issue w s).ovf = s.ovf := rfl
@[simp] theorem issue_errcode : (issue w s).errcode = s.errcode := rfl
@[simp] theorem issue_phase : (issue w s).phase = s.phase := rfl
@[simp] theorem issue_pcl : (issue w s).pcl = s.pcl := rfl
@[simp] theorem issue_chv : (issue w s).chv = s.chv := rfl
@[simp] theorem issue_tblv : (issue w s).tblv = s.tblv := rfl
@[simp] theorem issue_tagchk : (issue w s).tagchk = s.tagchk := rfl
@[simp] theorem issue_tagok : (issue w s).tagok = s.tagok := rfl
@[simp] theorem issue_cfgMode : (issue w s).cfgMode = s.cfgMode := rfl
@[simp] theorem issue_cfgDir : (issue w s).cfgDir = s.cfgDir := rfl
@[simp] theorem issue_cfgTlen : (issue w s).cfgTlen = s.cfgTlen := rfl
@[simp] theorem issue_din : (issue w s).din = s.din := rfl
@[simp] theorem issue_dout : (issue w s).dout = s.dout := rfl
@[simp] theorem issue_chain : (issue w s).chain = s.chain := rfl
@[simp] theorem issue_subkeyH : (issue w s).subkeyH = s.subkeyH := rfl
@[simp] theorem issue_accS : (issue w s).accS = s.accS := rfl
@[simp] theorem issue_j0 : (issue w s).j0 = s.j0 := rfl
@[simp] theorem issue_tag : (issue w s).tag = s.tag := rfl
@[simp] theorem issue_tagexp : (issue w s).tagexp = s.tagexp := rfl
@[simp] theorem issue_aadlen : (issue w s).aadlen = s.aadlen := rfl
@[simp] theorem issue_clen : (issue w s).clen = s.clen := rfl
@[simp] theorem issue_ivlen : (issue w s).ivlen = s.ivlen := rfl
@[simp] theorem issue_tblIdx : (issue w s).tblIdx = s.tblIdx := rfl
@[simp] theorem issue_table : (issue w s).table = s.table := rfl
@[simp] theorem issue_pend : (issue w s).pend = some ⟨w, Config.latency w s.draws⟩ := rfl
@[simp] theorem issue_inputs : (issue w s).inputs = s.inputs := rfl
@[simp] theorem issue_rdata : (issue w s).rdata = s.rdata := rfl
@[simp] theorem issue_draws : (issue w s).draws = s.draws + 1 := rfl
@[simp] theorem issue_cipherReqs : (issue w s).cipherReqs = s.cipherReqs := rfl

end

/-! ### clearStatus -/

section

variable (w : Word) (s : State)

@[simp] theorem clearStatus_ieDone : (clearStatus w s).ieDone = s.ieDone := rfl
@[simp] theorem clearStatus_ieErr : (clearStatus w s).ieErr = s.ieErr := rfl
@[simp] theorem clearStatus_done : (clearStatus w s).done = (s.done && !w.getLsbD 1) := rfl
@[simp] theorem clearStatus_err : (clearStatus w s).err = (s.err && !w.getLsbD 2) := rfl
@[simp] theorem clearStatus_ovf : (clearStatus w s).ovf = (s.ovf && !w.getLsbD 3) := rfl
@[simp] theorem clearStatus_errcode : (clearStatus w s).errcode = if w.getLsbD 2 then 0 else s.errcode := rfl
@[simp] theorem clearStatus_phase : (clearStatus w s).phase = s.phase := rfl
@[simp] theorem clearStatus_pcl : (clearStatus w s).pcl = s.pcl := rfl
@[simp] theorem clearStatus_chv : (clearStatus w s).chv = s.chv := rfl
@[simp] theorem clearStatus_tblv : (clearStatus w s).tblv = s.tblv := rfl
@[simp] theorem clearStatus_tagchk : (clearStatus w s).tagchk = s.tagchk := rfl
@[simp] theorem clearStatus_tagok : (clearStatus w s).tagok = s.tagok := rfl
@[simp] theorem clearStatus_cfgMode : (clearStatus w s).cfgMode = s.cfgMode := rfl
@[simp] theorem clearStatus_cfgDir : (clearStatus w s).cfgDir = s.cfgDir := rfl
@[simp] theorem clearStatus_cfgTlen : (clearStatus w s).cfgTlen = s.cfgTlen := rfl
@[simp] theorem clearStatus_din : (clearStatus w s).din = s.din := rfl
@[simp] theorem clearStatus_dout : (clearStatus w s).dout = s.dout := rfl
@[simp] theorem clearStatus_chain : (clearStatus w s).chain = s.chain := rfl
@[simp] theorem clearStatus_subkeyH : (clearStatus w s).subkeyH = s.subkeyH := rfl
@[simp] theorem clearStatus_accS : (clearStatus w s).accS = s.accS := rfl
@[simp] theorem clearStatus_j0 : (clearStatus w s).j0 = s.j0 := rfl
@[simp] theorem clearStatus_tag : (clearStatus w s).tag = s.tag := rfl
@[simp] theorem clearStatus_tagexp : (clearStatus w s).tagexp = s.tagexp := rfl
@[simp] theorem clearStatus_aadlen : (clearStatus w s).aadlen = s.aadlen := rfl
@[simp] theorem clearStatus_clen : (clearStatus w s).clen = s.clen := rfl
@[simp] theorem clearStatus_ivlen : (clearStatus w s).ivlen = s.ivlen := rfl
@[simp] theorem clearStatus_tblIdx : (clearStatus w s).tblIdx = s.tblIdx := rfl
@[simp] theorem clearStatus_table : (clearStatus w s).table = s.table := rfl
@[simp] theorem clearStatus_pend : (clearStatus w s).pend = s.pend := rfl
@[simp] theorem clearStatus_inputs : (clearStatus w s).inputs = s.inputs := rfl
@[simp] theorem clearStatus_rdata : (clearStatus w s).rdata = s.rdata := rfl
@[simp] theorem clearStatus_draws : (clearStatus w s).draws = s.draws := rfl
@[simp] theorem clearStatus_cipherReqs : (clearStatus w s).cipherReqs = s.cipherReqs := rfl

end

/-! ### latchConfig -/

section

variable (m : Mode) (dir : Dir) (tlen : BitVec 8) (s : State)

@[simp] theorem latchConfig_ieDone : (latchConfig m dir tlen s).ieDone = s.ieDone := rfl
@[simp] theorem latchConfig_ieErr : (latchConfig m dir tlen s).ieErr = s.ieErr := rfl
@[simp] theorem latchConfig_done : (latchConfig m dir tlen s).done = s.done := rfl
@[simp] theorem latchConfig_err : (latchConfig m dir tlen s).err = s.err := rfl
@[simp] theorem latchConfig_ovf : (latchConfig m dir tlen s).ovf = s.ovf := rfl
@[simp] theorem latchConfig_errcode : (latchConfig m dir tlen s).errcode = s.errcode := rfl
@[simp] theorem latchConfig_phase : (latchConfig m dir tlen s).phase = s.phase := rfl
@[simp] theorem latchConfig_pcl : (latchConfig m dir tlen s).pcl = false := rfl
@[simp] theorem latchConfig_chv : (latchConfig m dir tlen s).chv = s.chv := rfl
@[simp] theorem latchConfig_tblv : (latchConfig m dir tlen s).tblv = s.tblv := rfl
@[simp] theorem latchConfig_tagchk : (latchConfig m dir tlen s).tagchk = false := rfl
@[simp] theorem latchConfig_tagok : (latchConfig m dir tlen s).tagok = false := rfl
@[simp] theorem latchConfig_cfgMode : (latchConfig m dir tlen s).cfgMode = some m := rfl
@[simp] theorem latchConfig_cfgDir : (latchConfig m dir tlen s).cfgDir = dir := rfl
@[simp] theorem latchConfig_cfgTlen : (latchConfig m dir tlen s).cfgTlen = if m = .gcm then effectiveTlen tlen else 0 := rfl
@[simp] theorem latchConfig_din : (latchConfig m dir tlen s).din = s.din := rfl
@[simp] theorem latchConfig_dout : (latchConfig m dir tlen s).dout = s.dout := rfl
@[simp] theorem latchConfig_chain : (latchConfig m dir tlen s).chain = s.chain := rfl
@[simp] theorem latchConfig_subkeyH : (latchConfig m dir tlen s).subkeyH = s.subkeyH := rfl
@[simp] theorem latchConfig_accS : (latchConfig m dir tlen s).accS = s.accS := rfl
@[simp] theorem latchConfig_j0 : (latchConfig m dir tlen s).j0 = s.j0 := rfl
@[simp] theorem latchConfig_tag : (latchConfig m dir tlen s).tag = s.tag := rfl
@[simp] theorem latchConfig_tagexp : (latchConfig m dir tlen s).tagexp = s.tagexp := rfl
@[simp] theorem latchConfig_aadlen : (latchConfig m dir tlen s).aadlen = s.aadlen := rfl
@[simp] theorem latchConfig_clen : (latchConfig m dir tlen s).clen = s.clen := rfl
@[simp] theorem latchConfig_ivlen : (latchConfig m dir tlen s).ivlen = s.ivlen := rfl
@[simp] theorem latchConfig_tblIdx : (latchConfig m dir tlen s).tblIdx = s.tblIdx := rfl
@[simp] theorem latchConfig_table : (latchConfig m dir tlen s).table = s.table := rfl
@[simp] theorem latchConfig_pend : (latchConfig m dir tlen s).pend = s.pend := rfl
@[simp] theorem latchConfig_inputs : (latchConfig m dir tlen s).inputs = s.inputs := rfl
@[simp] theorem latchConfig_rdata : (latchConfig m dir tlen s).rdata = s.rdata := rfl
@[simp] theorem latchConfig_draws : (latchConfig m dir tlen s).draws = s.draws := rfl
@[simp] theorem latchConfig_cipherReqs : (latchConfig m dir tlen s).cipherReqs = s.cipherReqs := rfl

end

/-! ### placeWord -/

section

variable (w : Word) (s : State)

@[simp] theorem placeWord_ieDone : (placeWord w s).ieDone = s.ieDone := rfl
@[simp] theorem placeWord_ieErr : (placeWord w s).ieErr = s.ieErr := rfl
@[simp] theorem placeWord_done : (placeWord w s).done = s.done := rfl
@[simp] theorem placeWord_err : (placeWord w s).err = s.err := rfl
@[simp] theorem placeWord_ovf : (placeWord w s).ovf = s.ovf := rfl
@[simp] theorem placeWord_errcode : (placeWord w s).errcode = s.errcode := rfl
@[simp] theorem placeWord_phase : (placeWord w s).phase = s.phase := rfl
@[simp] theorem placeWord_pcl : (placeWord w s).pcl = s.pcl := rfl
@[simp] theorem placeWord_chv : (placeWord w s).chv = s.chv := rfl
@[simp] theorem placeWord_tblv : (placeWord w s).tblv = s.tblv := rfl
@[simp] theorem placeWord_tagchk : (placeWord w s).tagchk = s.tagchk := rfl
@[simp] theorem placeWord_tagok : (placeWord w s).tagok = s.tagok := rfl
@[simp] theorem placeWord_cfgMode : (placeWord w s).cfgMode = s.cfgMode := rfl
@[simp] theorem placeWord_cfgDir : (placeWord w s).cfgDir = s.cfgDir := rfl
@[simp] theorem placeWord_cfgTlen : (placeWord w s).cfgTlen = s.cfgTlen := rfl
@[simp] theorem placeWord_din : (placeWord w s).din = s.din := rfl
@[simp] theorem placeWord_dout : (placeWord w s).dout = s.dout := rfl
@[simp] theorem placeWord_chain : (placeWord w s).chain = s.chain := rfl
@[simp] theorem placeWord_subkeyH : (placeWord w s).subkeyH = s.subkeyH := rfl
@[simp] theorem placeWord_accS : (placeWord w s).accS = s.accS := rfl
@[simp] theorem placeWord_j0 : (placeWord w s).j0 = s.j0 := rfl
@[simp] theorem placeWord_tag : (placeWord w s).tag = s.tag := rfl
@[simp] theorem placeWord_tagexp : (placeWord w s).tagexp = s.tagexp := rfl
@[simp] theorem placeWord_aadlen : (placeWord w s).aadlen = s.aadlen := rfl
@[simp] theorem placeWord_clen : (placeWord w s).clen = s.clen := rfl
@[simp] theorem placeWord_ivlen : (placeWord w s).ivlen = s.ivlen := rfl
@[simp] theorem placeWord_tblIdx : (placeWord w s).tblIdx = s.tblIdx := rfl
@[simp] theorem placeWord_table : (placeWord w s).table = s.table := rfl
@[simp] theorem placeWord_pend : (placeWord w s).pend = some ⟨w, 0⟩ := rfl
@[simp] theorem placeWord_inputs : (placeWord w s).inputs = .idle :: s.inputs := rfl
@[simp] theorem placeWord_rdata : (placeWord w s).rdata = s.rdata := rfl
@[simp] theorem placeWord_draws : (placeWord w s).draws = s.draws := rfl
@[simp] theorem placeWord_cipherReqs : (placeWord w s).cipherReqs = s.cipherReqs := rfl

end

end Sys2Proof.Machine
end

