-- ==== Sys2Proof/Laws/Ops.lean ====
section
/-! SUPPORT. What each shared operation can do, said once: the check lists, a commit, a bus access, a host event, a step. -/

namespace Sys2Proof.Machine

/-! ### Check lists -/

@[simp] theorem firstFailure_nil : firstFailure [] = none := rfl

@[simp] theorem firstFailure_cons (c : Check) (rest : List Check) :
    firstFailure (c :: rest) = if c.holds then firstFailure rest else some c.code := rfl

/-- A list of checks has no failure exactly when all of them hold. -/
theorem firstFailure_eq_none (cs : List Check) : firstFailure cs = none ↔ ∀ c ∈ cs, c.holds = true := by
  induction cs with
  | nil => simp
  | cons c rest ih => cases h : c.holds <;> simp [h, ih]

/-- The first failure of two lists in a row. -/
theorem firstFailure_append (cs ds : List Check) :
    firstFailure (cs ++ ds) = (firstFailure cs).or (firstFailure ds) := by
  induction cs with
  | nil => simp
  | cons c rest ih => cases h : c.holds <;> simp [h, ih]

/-! ### Commits -/

/-- Raising an error is the whole of what the claims call an error. -/
theorem raiseError_eq_errorState (stream : Bool) (e : ErrCode) (s : State) :
    raiseError stream e s = Safety.errorState stream e s := rfl

section

variable {op : Opcode} {checks : List Check} {effect : State → State} {s t : State}

theorem commit_of_failure {e : ErrCode} (h : firstFailure checks = some e) :
    commit op checks effect s = .next (raiseError op.isStream e s) := by
  simp [commit, h]

theorem commit_of_success (h : firstFailure checks = none) :
    commit op checks effect s = .next (succeed (effect s)) := by
  simp [commit, h]

/-- What a commit can do: fail with the first code, or succeed with the effect. -/
theorem commit_cases (h : commit op checks effect s = .next t) :
    (∃ e, firstFailure checks = some e ∧ t = raiseError op.isStream e s)
    ∨ (firstFailure checks = none ∧ t = succeed (effect s)) := by
  unfold commit at h
  split at h
  · next e he => exact .inl ⟨e, he, by simpa using h.symm⟩
  · next he => exact .inr ⟨he, by simpa using h.symm⟩

/-- A commit always answers a next state. -/
theorem commit_next : ∃ t, commit op checks effect s = .next t := by
  unfold commit
  split <;> exact ⟨_, rfl⟩

end

/-! ### Every command is a commit of its checks and its effect -/

section

variable (nb : BitVec 5) (s : State)

theorem exec_nop : exec .nop s = commit .nop [] id s := rfl

theorem exec_start (mode : BitVec 3) (dir : Dir) (leg : Bool) (tlen : BitVec 8) :
    exec (.start mode dir leg nb tlen) s
      = commit .start (startChecks mode dir leg nb tlen s) (startEffect mode dir leg nb tlen) s := rfl

theorem exec_block : exec (.block nb) s = commit .block (blockChecks nb s) (blockEffect nb) s := rfl

theorem exec_gcmIv :
    exec (.gcmIv nb) s
      = commit .gcmIv (nbCheck nb :: gcmStreamChecks s ++ [⟨.sequence, s.phase == .gcmIv && !s.pcl⟩])
          (gcmIvEffect nb) s := rfl

theorem exec_gcmIvend :
    exec .gcmIvend s
      = commit .gcmIvend (gcmStreamChecks s ++ [⟨.sequence, s.phase == .gcmIv⟩]) gcmIvendEffect s := rfl

theorem exec_gcmAad :
    exec (.gcmAad nb) s
      = commit .gcmAad
          (nbCheck nb :: gcmStreamChecks s
            ++ [⟨.noIv, s.phase != .gcmIv⟩, ⟨.sequence, s.phase == .gcmAad && !s.pcl⟩])
          (gcmAadEffect nb) s := rfl

theorem exec_gcmFinish :
    exec .gcmFinish s
      = commit .gcmFinish
          (gcmStreamChecks s ++ [⟨.noIv, s.phase != .gcmIv⟩, ⟨.sequence, s.phase != .gcmDone⟩])
          gcmFinishEffect s := rfl

theorem exec_ghLoadh : exec .ghLoadh s = commit .ghLoadh [] (fun t => loadSubkey t.din t) s := rfl

theorem exec_ghClear : exec .ghClear s = commit .ghClear [] (fun t => { t with accS := 0 }) s := rfl

theorem exec_ghSets : exec .ghSets s = commit .ghSets [] (fun t => { t with accS := t.din }) s := rfl

theorem exec_ghStep :
    exec (.ghStep nb) s
      = commit .ghStep [nbCheck nb, keyCheck s] (fun t => ghashStep (maskNb t.din nb) t) s := rfl

theorem exec_ghMulref :
    exec .ghMulref s
      = commit .ghMulref [keyCheck s] (fun t => { t with dout := gmulRef t.din t.subkeyH }) s := rfl

theorem exec_ghMultbl :
    exec .ghMultbl s = commit .ghMultbl [keyCheck s] (fun t => { t with dout := tmul t.table t.din }) s := rfl

theorem exec_ghMulx : exec .ghMulx s = commit .ghMulx [] (fun t => { t with dout := mulx t.din }) s := rfl

theorem exec_utInc32 : exec .utInc32 s = commit .utInc32 [] (fun t => { t with dout := inc32 t.din }) s := rfl

end

/-- Every command is the commit of some checks and some effect, under its own operation. -/
theorem exec_eq_commit (i : Instr) (s : State) :
    ∃ checks effect, exec i s = commit i.opcode checks effect s := by
  cases i with
  | nop => exact ⟨_, _, exec_nop s⟩
  | start mode dir leg nb tlen => exact ⟨_, _, exec_start nb s mode dir leg tlen⟩
  | block nb => exact ⟨_, _, exec_block nb s⟩
  | gcmIv nb => exact ⟨_, _, exec_gcmIv nb s⟩
  | gcmIvend => exact ⟨_, _, exec_gcmIvend s⟩
  | gcmAad nb => exact ⟨_, _, exec_gcmAad nb s⟩
  | gcmFinish => exact ⟨_, _, exec_gcmFinish s⟩
  | ghLoadh => exact ⟨_, _, exec_ghLoadh s⟩
  | ghClear => exact ⟨_, _, exec_ghClear s⟩
  | ghSets => exact ⟨_, _, exec_ghSets s⟩
  | ghStep nb => exact ⟨_, _, exec_ghStep nb s⟩
  | ghMulref => exact ⟨_, _, exec_ghMulref s⟩
  | ghMultbl => exact ⟨_, _, exec_ghMultbl s⟩
  | ghMulx => exact ⟨_, _, exec_ghMulx s⟩
  | utInc32 => exact ⟨_, _, exec_utInc32 s⟩

/-- Every command answers a next state. -/
theorem exec_next (i : Instr) (s : State) : ∃ t, exec i s = .next t := by
  obtain ⟨checks, effect, h⟩ := exec_eq_commit i s
  rw [h]
  exact commit_next

/-- Every command word answers a next state. -/
theorem commitWord_next (w : Word) (s : State) : ∃ t, commitWord w s = .next t := by
  unfold commitWord
  split
  · exact exec_next _ _
  · exact ⟨_, rfl⟩

/-! ### The bus -/

/-- What a host read can do: answer a value, and count a drawing. -/
theorem busRead_eq (off : Nat) (s : State) :
    (∃ v, readReg s (regAt off) = some v ∧ busRead off s = { s with rdata := v })
    ∨ (readReg s (regAt off) = none
      ∧ busRead off s = { s with rdata := Config.freeRead s.draws, draws := s.draws + 1 }) := by
  unfold busRead
  split
  · next v h => exact .inl ⟨v, h, rfl⟩
  · next h => exact .inr ⟨h, rfl⟩

/-- What a bus access can do: be handled at its offset, if it lies in the window and is supported. -/
theorem busAccess_cases {addr bytes : Nat} {strobes : BitVec 4} {handle : Nat → State → State} {s t : State}
    (h : busAccess addr bytes strobes handle s = .next t) :
    base ≤ addr ∧ addr < base + 256 ∧ bytes = 4 ∧ (addr - base) % 4 = 0 ∧ strobes = 0xF
      ∧ t = handle (addr - base) s := by
  unfold busAccess at h
  split at h
  · cases h
  · next hw =>
    split at h
    · cases h
    · next hs =>
      simp only [inWindow, Bool.not_eq_true', Bool.not_eq_false, Bool.and_eq_true, decide_eq_true_eq] at hw
      simp only [supported, Bool.not_eq_true', Bool.not_eq_false, Bool.and_eq_true, beq_iff_eq] at hs
      exact ⟨hw.1, hw.2, hs.1.1, hs.1.2, hs.2, by simpa using h.symm⟩

/-- A supported access in the window is handled at its offset. -/
theorem busAccess_of_supported {off : Nat} (handle : Nat → State → State) (s : State) (h : off < 256) (h4 : off % 4 = 0) :
    busAccess (base + off) 4 0xF handle s = .next (handle off s) := by
  simp [busAccess, inWindow, supported, h, h4]

/-- An access outside the window is refused, whatever its width or alignment. -/
theorem busAccess_outside {addr : Nat} (bytes : Nat) (strobes : BitVec 4) (handle : Nat → State → State) (s : State)
    (h : addr < base ∨ base + 256 ≤ addr) : busAccess addr bytes strobes handle s = .refused .outsideWindow := by
  have hw : inWindow addr = false := by
    simp only [inWindow, Bool.and_eq_false_iff, decide_eq_false_iff_not]
    omega
  simp [busAccess, hw]

/-- An access in the window that is not supported is refused. -/
theorem busAccess_unsupported {off bytes : Nat} {strobes : BitVec 4} (handle : Nat → State → State) (s : State)
    (h : off < 256) (hs : bytes ≠ 4 ∨ off % 4 ≠ 0 ∨ strobes ≠ 0xF) :
    busAccess (base + off) bytes strobes handle s = .refused .unsupportedAccess := by
  have hw : inWindow (base + off) = true := by simp [inWindow, h]
  have hn : supported off bytes strobes = false := by
    simp only [supported, Bool.and_eq_false_iff, beq_eq_false_iff_ne]
    tauto
  simp [busAccess, hw, hn]

/-- A supported host read. -/
theorem hostEvent_read {off : Nat} (s : State) (h : off < 256) (h4 : off % 4 = 0) :
    hostEvent (.read (base + off) 4) s = .next (busRead off s) :=
  busAccess_of_supported busRead s h h4

/-- A supported host write. -/
theorem hostEvent_write {off : Nat} (v : Word) (s : State) (h : off < 256) (h4 : off % 4 = 0) :
    hostEvent (.write (base + off) 4 0xF v) s = .next (busWrite off v s) :=
  busAccess_of_supported (fun off => busWrite off v) s h h4

/-- What a host event can do: nothing, a reset, a read or a write at an aligned offset of the window. -/
theorem hostEvent_cases {e : HostEvent} {s t : State} (h : hostEvent e s = .next t) :
    (e = .idle ∧ t = s) ∨ (e = .hardReset ∧ t = resetBlock s)
    ∨ (∃ off, off < 256 ∧ off % 4 = 0 ∧ e = .read (base + off) 4 ∧ t = busRead off s)
    ∨ (∃ off v, off < 256 ∧ off % 4 = 0 ∧ e = .write (base + off) 4 0xF v ∧ t = busWrite off v s) := by
  cases e with
  | idle => exact .inl ⟨rfl, by simpa [hostEvent] using h.symm⟩
  | hardReset => exact .inr (.inl ⟨rfl, by simpa [hostEvent] using h.symm⟩)
  | read addr bytes =>
    obtain ⟨h1, h2, rfl, h4, -, rfl⟩ := busAccess_cases h
    exact .inr (.inr (.inl ⟨addr - base, by omega, h4, by rw [Nat.add_sub_cancel' h1], rfl⟩))
  | write addr bytes strobes v =>
    have h' : busAccess addr bytes strobes (fun off => busWrite off v) s = .next t := h
    obtain ⟨h1, h2, rfl, h4, rfl, rfl⟩ := busAccess_cases h'
    exact .inr (.inr (.inr ⟨addr - base, v, by omega, h4, by rw [Nat.add_sub_cancel' h1], rfl⟩))

/-- What the host's part of a step can do: nothing where no event waits, else the oldest event. -/
theorem hostPhase_cases {s t : State} (h : hostPhase s = .next t) :
    (s.inputs = [] ∧ t = s) ∨ ∃ e rest, s.inputs = e :: rest ∧ hostEvent e { s with inputs := rest } = .next t := by
  unfold hostPhase at h
  split at h
  · next hi => exact .inl ⟨hi, by simpa using h.symm⟩
  · next e rest hi => exact .inr ⟨e, rest, hi, h⟩

/-! ### The engine and the step -/

/-- What a tick can do: nothing, one wait less, or the commit of the pending word. -/
theorem engineTick_cases {s t : State} (h : engineTick s = .next t) :
    (s.pend = none ∧ t = s)
    ∨ (∃ w n, s.pend = some ⟨w, n + 1⟩ ∧ t = { s with pend := some ⟨w, n⟩ })
    ∨ ∃ w, s.pend = some ⟨w, 0⟩ ∧ commitWord w s = .next t := by
  unfold engineTick at h
  split at h
  · next hp => exact .inl ⟨hp, by simpa using h.symm⟩
  · next w hp => exact .inr (.inr ⟨w, hp, h⟩)
  · next w n hp => exact .inr (.inl ⟨w, n, hp, by simpa using h.symm⟩)

/-- What a step can do: the host's event, then a tick. -/
theorem step_cases {s t : State} (h : step s = .next t) :
    ∃ u, hostPhase s = .next u ∧ engineTick u = .next t := by
  unfold step at h
  split at h
  · next u hu => exact ⟨u, hu, h⟩
  · cases h
  · cases h

end Sys2Proof.Machine
end

