-- ==== Sys2Proof/Laws/Words.lean ====
section
/-! SUPPORT. What the functions on words and blocks give: the fields of a packed word, the byte mask, the words of a block,
the entries of a table. -/

namespace Sys2Proof

/-- The low part of a concatenation. -/
theorem extract_append_low {n m : Nat} (x : BitVec n) (y : BitVec m) : (x ++ y).extractLsb' 0 m = y := by
  ext i hi
  simp [BitVec.getLsbD_append, hi]

/-- A field that lies in the high part of a concatenation. -/
theorem extract_append_high {n m : Nat} (x : BitVec n) (y : BitVec m) (k len : Nat) :
    (x ++ y).extractLsb' (m + k) len = x.extractLsb' k len := by
  ext i hi
  simp only [BitVec.getElem_extractLsb', BitVec.getLsbD_append]
  rw [if_neg (by omega)]
  congr 1
  omega

/-- A bit that lies in the high part of a concatenation. -/
theorem getLsbD_append_high {n m : Nat} (x : BitVec n) (y : BitVec m) (k : Nat) :
    (x ++ y).getLsbD (m + k) = x.getLsbD k := by
  rw [BitVec.getLsbD_append, if_neg (by omega)]
  congr 1
  omega

/-- The bit of a one-bit field in the middle of a concatenation. -/
theorem getLsbD_append_bit {n m : Nat} (x : BitVec n) (b : Bool) (y : BitVec m) :
    (x ++ BitVec.ofBool b ++ y).getLsbD m = b := by
  rw [BitVec.getLsbD_append, if_neg (Nat.lt_irrefl m), Nat.sub_self, BitVec.getLsbD_append]
  cases b <;> rfl

section

variable (tlen : BitVec 8) (nb : BitVec 5) (leg dir : Bool) (mode : BitVec 3) (op : BitVec 8)

@[simp] theorem opField_packWord : opField (packWord tlen nb leg dir mode op) = op :=
  extract_append_low _ op

@[simp] theorem modeField_packWord : modeField (packWord tlen nb leg dir mode op) = mode :=
  (extract_append_high _ op 0 3).trans (extract_append_low _ mode)

@[simp] theorem dirField_packWord (d : Dir) : dirField (packWord tlen nb leg d.bit mode op) = d := by
  have h : (packWord tlen nb leg d.bit mode op).getLsbD 11 = d.bit :=
    (getLsbD_append_high _ op 3).trans (getLsbD_append_bit _ d.bit mode)
  rw [dirField, h]
  cases d <;> rfl

@[simp] theorem legField_packWord : legField (packWord tlen nb leg dir mode op) = leg :=
  (getLsbD_append_high _ op 4).trans
    ((getLsbD_append_high _ mode 1).trans (getLsbD_append_bit _ leg (BitVec.ofBool dir)))

@[simp] theorem reservedLow_packWord : reservedLow (packWord tlen nb leg dir mode op) = 0 :=
  (extract_append_high _ op 5 3).trans <| (extract_append_high _ mode 2 3).trans <|
    (extract_append_high _ (BitVec.ofBool dir) 1 3).trans <| (extract_append_high _ (BitVec.ofBool leg) 0 3).trans <|
      extract_append_low _ 0#3

@[simp] theorem nbField_packWord : nbField (packWord tlen nb leg dir mode op) = nb :=
  (extract_append_high _ op 8 5).trans <| (extract_append_high _ mode 5 5).trans <|
    (extract_append_high _ (BitVec.ofBool dir) 4 5).trans <| (extract_append_high _ (BitVec.ofBool leg) 3 5).trans <|
      (extract_append_high _ 0#3 0 5).trans <| extract_append_low _ nb

@[simp] theorem reservedHigh_packWord : reservedHigh (packWord tlen nb leg dir mode op) = 0 :=
  (extract_append_high _ op 13 3).trans <| (extract_append_high _ mode 10 3).trans <|
    (extract_append_high _ (BitVec.ofBool dir) 9 3).trans <| (extract_append_high _ (BitVec.ofBool leg) 8 3).trans <|
      (extract_append_high _ 0#3 5 3).trans <| (extract_append_high _ nb 0 3).trans <| extract_append_low _ 0#3

@[simp] theorem tlenField_packWord : tlenField (packWord tlen nb leg dir mode op) = tlen :=
  (extract_append_high _ op 16 8).trans <| (extract_append_high _ mode 13 8).trans <|
    (extract_append_high _ (BitVec.ofBool dir) 12 8).trans <| (extract_append_high _ (BitVec.ofBool leg) 11 8).trans <|
      (extract_append_high _ 0#3 8 8).trans <| (extract_append_high _ nb 3 8).trans <|
        (extract_append_high tlen 0#3 0 8).trans <| by ext i hi; simp

end

@[simp] theorem opcodeOf_bits (op : Opcode) : opcodeOf op.bits = some op := by
  cases op <;> rfl

namespace Machine

/-! ### The byte mask -/

/-- A bit of a masked block: the bit itself in the bytes kept, 0 below them. -/
theorem getLsbD_mask (v : Block) (n j : Nat) (hn : n ≤ 16) :
    (mask v n).getLsbD j = (v.getLsbD j && decide (128 - 8 * n ≤ j)) := by
  by_cases hj : j < 128
  · by_cases h : 128 - 8 * n ≤ j
    · have h1 : ¬ j < 128 - 8 * n := by omega
      have h2 : j - (128 - 8 * n) < 8 * n := by omega
      have h3 : j - (128 - 8 * n) < 128 := by omega
      have h4 : (BitVec.ofNat 128 (2 ^ (8 * n) - 1)).getLsbD (j - (128 - 8 * n)) = true := by
        rw [BitVec.getLsbD_ofNat, Nat.testBit_two_pow_sub_one]
        simp [h2, h3]
      simp only [mask, BitVec.getLsbD_and, BitVec.getLsbD_shiftLeft, hj, h, h1, h4, decide_true, decide_false,
        Bool.not_false, Bool.and_true]
    · have h1 : j < 128 - 8 * n := by omega
      simp [mask, h, h1]
  · rw [BitVec.getLsbD_of_ge _ _ (by omega), BitVec.getLsbD_of_ge v _ (by omega), Bool.false_and]

@[simp] theorem mask_zero (n : Nat) : mask 0 n = 0 := by
  simp [mask]

theorem mask_xor (v w : Block) (n : Nat) : mask (v ^^^ w) n = mask v n ^^^ mask w n := by
  ext i hi
  simp [mask, Bool.and_xor_distrib_right]

@[simp] theorem mask_mask (v : Block) (n : Nat) : mask (mask v n) n = mask v n := by
  simp [mask, BitVec.and_assoc]

@[simp] theorem mask_sixteen (v : Block) : mask v 16 = v := by
  ext i hi
  rw [← BitVec.getLsbD_eq_getElem, getLsbD_mask v 16 i (by omega), BitVec.getLsbD_eq_getElem hi]
  simp

/-! ### The words of a block -/

theorem getLsbD_wordOnes (i : Nat) : ((BitVec.allOnes 32).setWidth 128).getLsbD i = decide (i < 32) := by
  rw [BitVec.getLsbD_setWidth, BitVec.getLsbD_allOnes]
  by_cases h : i < 32
  · have h2 : i < 128 := by omega
    simp [h, h2]
  · simp [h]

/-- Writing a word of a block changes that word and no other. -/
theorem blockWord_setBlockWord (v : Block) (k j : Fin 4) (w : Word) :
    blockWord (setBlockWord v k w) j = if j = k then w else blockWord v j := by
  have hk := k.isLt
  have hj := j.isLt
  apply BitVec.eq_of_getLsbD_eq
  intro i hi
  have hin : 96 - 32 * j.val + i < 128 := by omega
  unfold blockWord setBlockWord
  simp only [BitVec.getLsbD_extractLsb', BitVec.getLsbD_or, BitVec.getLsbD_and, BitVec.getLsbD_not,
    BitVec.getLsbD_shiftLeft, getLsbD_wordOnes, hi, hin, decide_true, Bool.true_and]
  by_cases hjk : j = k
  · subst hjk
    have h1 : ¬ 96 - 32 * j.val + i < 96 - 32 * j.val := by omega
    have h2 : 96 - 32 * j.val + i - (96 - 32 * j.val) = i := by omega
    have h3 : i < 128 := by omega
    simp [h1, h2, h3, hi, BitVec.getLsbD_eq_getElem]
  · have hne : j.val ≠ k.val := fun h => hjk (Fin.ext h)
    simp only [if_neg hjk, BitVec.getLsbD_extractLsb', hi, decide_true, Bool.true_and]
    by_cases hlt : 96 - 32 * j.val + i < 96 - 32 * k.val
    · simp [hlt]
    · have h4 : ¬ 96 - 32 * j.val + i - (96 - 32 * k.val) < 32 := by omega
      simp [h4, BitVec.getLsbD_setWidth, BitVec.getLsbD_of_ge w _ (by omega : 32 ≤ 96 - 32 * j.val + i - (96 - 32 * k.val))]

/-! ### The table -/

/-- An entry of a table given by its entries. -/
@[simp] theorem tableAt_tabulate (f : Nat → Block) (i : BitVec 9) : tableAt (tabulate f) i = f i.toNat := by
  simp [tableAt, tabulate]

/-- An entry of the table of H. -/
theorem tableAt_buildTable (h : Block) (p n : Nat) (hp : p < 32) (hn : n < 16) :
    tableAt (buildTable h) (BitVec.ofNat 9 (16 * p + n)) = tableEntry h p n := by
  have hi : (BitVec.ofNat 9 (16 * p + n)).toNat = 16 * p + n := by
    rw [BitVec.toNat_ofNat, Nat.mod_eq_of_lt (by omega)]
  rw [buildTable, tableAt_tabulate, hi]
  congr 1 <;> omega

end Machine

end Sys2Proof
end

