-- ==== Sys2Proof/Laws/PerInstr.lean ====
section
/-! SUPPORT. What holds of every command as syntax, one lemma per constructor: the operation field of its word names its
operation. -/

namespace Sys2Proof.Laws

/-- The operation field of a command's word names the command's operation (30_encoding.md R122). -/
def EncodedOpcode.Statement (i : Instr) : Prop :=
  opcodeOf (opField (encode i)) = some i.opcode

theorem EncodedOpcode.nop : EncodedOpcode.Statement .nop := by
  simp [EncodedOpcode.Statement, encode, packPlain, Instr.opcode]

theorem EncodedOpcode.start (mode : BitVec 3) (dir : Dir) (leg : Bool) (nb : BitVec 5) (tlen : BitVec 8) : EncodedOpcode.Statement (.start mode dir leg nb tlen) := by
  simp [EncodedOpcode.Statement, encode, Instr.opcode]

theorem EncodedOpcode.block (nb : BitVec 5) : EncodedOpcode.Statement (.block nb) := by
  simp [EncodedOpcode.Statement, encode, packByteCount, Instr.opcode]

theorem EncodedOpcode.gcmIv (nb : BitVec 5) : EncodedOpcode.Statement (.gcmIv nb) := by
  simp [EncodedOpcode.Statement, encode, packByteCount, Instr.opcode]

theorem EncodedOpcode.gcmIvend : EncodedOpcode.Statement .gcmIvend := by
  simp [EncodedOpcode.Statement, encode, packPlain, Instr.opcode]

theorem EncodedOpcode.gcmAad (nb : BitVec 5) : EncodedOpcode.Statement (.gcmAad nb) := by
  simp [EncodedOpcode.Statement, encode, packByteCount, Instr.opcode]

theorem EncodedOpcode.gcmFinish : EncodedOpcode.Statement .gcmFinish := by
  simp [EncodedOpcode.Statement, encode, packPlain, Instr.opcode]

theorem EncodedOpcode.ghLoadh : EncodedOpcode.Statement .ghLoadh := by
  simp [EncodedOpcode.Statement, encode, packPlain, Instr.opcode]

theorem EncodedOpcode.ghClear : EncodedOpcode.Statement .ghClear := by
  simp [EncodedOpcode.Statement, encode, packPlain, Instr.opcode]

theorem EncodedOpcode.ghSets : EncodedOpcode.Statement .ghSets := by
  simp [EncodedOpcode.Statement, encode, packPlain, Instr.opcode]

theorem EncodedOpcode.ghStep (nb : BitVec 5) : EncodedOpcode.Statement (.ghStep nb) := by
  simp [EncodedOpcode.Statement, encode, packByteCount, Instr.opcode]

theorem EncodedOpcode.ghMulref : EncodedOpcode.Statement .ghMulref := by
  simp [EncodedOpcode.Statement, encode, packPlain, Instr.opcode]

theorem EncodedOpcode.ghMultbl : EncodedOpcode.Statement .ghMultbl := by
  simp [EncodedOpcode.Statement, encode, packPlain, Instr.opcode]

theorem EncodedOpcode.ghMulx : EncodedOpcode.Statement .ghMulx := by
  simp [EncodedOpcode.Statement, encode, packPlain, Instr.opcode]

theorem EncodedOpcode.utInc32 : EncodedOpcode.Statement .utInc32 := by
  simp [EncodedOpcode.Statement, encode, packPlain, Instr.opcode]

end Sys2Proof.Laws
end

