-- ==== Sys2Proof/Tests/Slice0.lean ====
section
/-! SUPPORT. The model's own tests: the well-formedness smoke, one word of every command decoded, vectors of the spec, one
step of each command, and for every statement with hypotheses a state that meets them. -/

namespace Sys2Proof.Tests

open Sys2Proof.Machine Sys2Proof.Safety

/-! ### Well-formedness refuses each ill-formed term -/

theorem test_wf_refuses_block_zero : (Instr.block 0).wf = false := by decide
theorem test_wf_refuses_block_seventeen : (Instr.block 17).wf = false := by decide
theorem test_wf_refuses_gcmIv : (Instr.gcmIv 0).wf = false ∧ (Instr.gcmIv 31).wf = false := by decide
theorem test_wf_refuses_gcmAad : (Instr.gcmAad 0).wf = false ∧ (Instr.gcmAad 17).wf = false := by decide
theorem test_wf_refuses_ghStep : (Instr.ghStep 0).wf = false ∧ (Instr.ghStep 17).wf = false := by decide
theorem test_wf_accepts_ends : (Instr.block 1).wf = true ∧ (Instr.ghStep 16).wf = true := by decide

/-! ### Decoding, the words as 30_encoding.md R134 and 95_test_vectors.md section 2 write them -/

theorem test_decode_nop : decode 0x00000000 = .ok .nop := by decide
theorem test_decode_start_cbc_legacy : decode 0x00001101 = .ok (.start 1 .enc true 0 0) := by decide
theorem test_decode_start_gcm_dec : decode 0x600C0D01 = .ok (.start 5 .dec false 12 0x60) := by decide
theorem test_decode_block : decode 0x00050002 = .ok (.block 5) := by decide
theorem test_decode_gcmIv : decode 0x000C0003 = .ok (.gcmIv 12) := by decide
theorem test_decode_gcmIvend : decode 0x00000004 = .ok .gcmIvend := by decide
theorem test_decode_gcmAad : decode 0x00040005 = .ok (.gcmAad 4) := by decide
theorem test_decode_gcmFinish : decode 0x00000006 = .ok .gcmFinish := by decide
theorem test_decode_ghLoadh : decode 0x00000010 = .ok .ghLoadh := by decide
theorem test_decode_ghClear : decode 0x00000011 = .ok .ghClear := by decide
theorem test_decode_ghSets : decode 0x00000012 = .ok .ghSets := by decide
theorem test_decode_ghStep : decode 0x00040013 = .ok (.ghStep 4) := by decide
theorem test_decode_ghMulref : decode 0x00000014 = .ok .ghMulref := by decide
theorem test_decode_ghMultbl : decode 0x00000015 = .ok .ghMultbl := by decide
theorem test_decode_ghMulx : decode 0x00000016 = .ok .ghMulx := by decide
theorem test_decode_utInc32 : decode 0x00000020 = .ok .utInc32 := by decide

/-- 95_test_vectors.md section 7.1: undefined OPs, NB = 0, a reserved bit, a MODE field, an unused NB. -/
theorem test_decode_refusals :
    decode 0x00000007 = .error .illegalOp ∧ decode 0x000000FF = .error .illegalOp
    ∧ decode 0x00000002 = .error (.illegalField .block) ∧ decode 0x00102002 = .error (.illegalField .block)
    ∧ decode 0x00100102 = .error (.illegalField .block) ∧ decode 0x00010011 = .error (.illegalField .ghClear) := by
  decide

theorem test_encode_words :
    encode (.start 5 .dec false 12 0x60) = 0x600C0D01 ∧ encode (.block 12) = 0x000C0002
    ∧ encode .utInc32 = 0x00000020 := by decide

/-! ### Vectors of the data path -/

/-- 95_test_vectors.md section 3.1. -/
theorem test_mulx_vectors :
    mulx 0x80000000000000000000000000000000 = 0x40000000000000000000000000000000
    ∧ mulx 0x00000000000000000000000000000003 = 0xe1000000000000000000000000000001
    ∧ mulx 0xffffffffffffffffffffffffffffffff = 0x9effffffffffffffffffffffffffffff
    ∧ mulx 0x66e94bd4ef8a2c3b884cfa59ca342b2e = 0x3374a5ea77c5161dc4267d2ce51a1597 := by decide

/-- 95_test_vectors.md section 3.2: the first GHASH step of test case 2. -/
theorem test_gmulRef_vector :
    gmulRef 0x0388dace60b6a392f328c2b971b2fe78 0x66e94bd4ef8a2c3b884cfa59ca342b2e
      = 0x5e2ec746917062882c85b0685353deb7 := by decide +kernel

/-- 95_test_vectors.md section 3.3: two entries of the table of that H. -/
theorem test_tableEntry_vectors :
    tableEntry 0x66e94bd4ef8a2c3b884cfa59ca342b2e 1 8 = 0xafae94bd4ef8a2c3b884cfa59ca342b2
    ∧ tableEntry 0x66e94bd4ef8a2c3b884cfa59ca342b2e 16 3 = 0xff776c07064b3c8db9e77b8fa613ce89 := by decide +kernel

/-- 95_test_vectors.md section 3.6: the wrap of W3 without a carry. -/
theorem test_inc32_wraps :
    inc32 0x000102030405060708090a0bffffffff = 0x000102030405060708090a0b00000000
    ∧ inc32 0x0000000000000000000000007fffffff = 0x00000000000000000000000080000000 := by decide

/-- 95_test_vectors.md section 3.7: the length block of test case 4. -/
theorem test_lenblock_vector : lenblock 160 480 = 0x00000000000000a000000000000001e0 := by decide

/-- 95_test_vectors.md section 3.5, row 6: the masked block. -/
theorem test_mask_vector :
    mask 0xaabbccddeeeeeeeeeeeeeeeeeeeeeeee 4 = 0xaabbccdd000000000000000000000000 := by decide

/-- 20_memory.md R85: the example of DIN's words. -/
theorem test_din_words :
    (busWrite 0x02C 0x0c0d0e0f (busWrite 0x028 0x08090a0b (busWrite 0x024 0x04050607
      (busWrite 0x020 0x00010203 State.reset)))).din = 0x000102030405060708090a0b0c0d0e0f := by decide

/-! ### One step of a command -/

/-- The word w as the next command, on a state. -/
def placed (w : Nat) (s : State) : Host.Outcome State Fault Refusal :=
  step (s.withFetchWord 32 w)

/-- 40_control.md R160: NOP from reset leaves STATUS = 0x00000002. -/
theorem test_step_nop : nextWith (fun t => statusWord t == 0x00000002) (placed 0x00000000 State.reset) = true := by
  decide

/-- 60_exceptions.md R316's examples from reset. -/
theorem test_step_block_without_stream :
    nextWith (fun t => statusWord t == 0x00000306) (placed 0x00100002 State.reset) = true := by decide

theorem test_step_start_legacy_without_chain :
    nextWith (fun t => statusWord t == 0x00000706) (placed 0x00001101 State.reset) = true := by decide

theorem test_step_start_ctr_legacy :
    nextWith (fun t => statusWord t == 0x00000606) (placed 0x00001401 State.reset) = true := by decide

theorem test_step_start_tag_length :
    nextWith (fun t => statusWord t == 0x00000806) (placed 0x600D0D01 State.reset) = true := by decide

theorem test_step_ghStep_without_key :
    nextWith (fun t => statusWord t == 0x00000906) (placed 0x00100013 State.reset) = true := by decide

theorem test_step_ghMulref_without_key :
    nextWith (fun t => statusWord t == 0x00000906) (placed 0x00000014 State.reset) = true := by decide

theorem test_step_ghMultbl_without_key :
    nextWith (fun t => statusWord t == 0x00000906) (placed 0x00000015 State.reset) = true := by decide

theorem test_step_illegal_op :
    nextWith (fun t => statusWord t == 0x00000106) (placed 0x00000007 State.reset) = true := by decide

/-- 95_test_vectors.md section 4.1: STATUS and CFG after a CBC START. -/
theorem test_step_start_cbc :
    nextWith (fun t => statusWord t == 0x00020012 && cfgWord t == 0x00000009 && t.chain == 7)
      (placed 0x00000901 { State.reset with din := 7 }) = true := by decide

/-- 95_test_vectors.md section 6.1: STATUS and CFG after a GCM START. -/
theorem test_step_start_gcm :
    nextWith (fun t => statusWord t == 0x00010022 && cfgWord t == 0x00008005 && t.cipherReqs == [.forward 0])
      (placed 0x00000501 { State.reset with chv := true, cfgMode := some .cbc, chain := 7 }) = true := by decide

/-- A stream of a mode in a phase, without a table. -/
def stream (m : Mode) (p : Phase) (d : Dir) : State :=
  { State.reset with cfgMode := some m, phase := p, cfgDir := d, chv := m == .cbc }

/-- 41_chaining.md R195 and R197: OFB feeds the whole keystream back, the request is CHAIN's. -/
theorem test_step_block_ofb :
    nextWith (fun t => t.cipherReqs == [.forward 5] && t.pcl && t.phase == .text)
      (placed 0x00050002 { stream .ofb .text .dec with chain := 5 }) = true := by decide

/-- 41_chaining.md R196: the counter wraps in its trailing word. -/
theorem test_step_block_ctr :
    nextWith (fun t => t.chain == 0x000102030405060708090a0b00000000 && !t.pcl)
      (placed 0x00100002 { stream .ctr .text .enc with chain := 0x000102030405060708090a0bffffffff }) = true := by
  decide

/-- 41_chaining.md R191: CBC decryption asks the inverse cipher and keeps the ciphertext block. -/
theorem test_step_block_cbc_dec :
    nextWith (fun t => t.cipherReqs == [.inverse 9] && t.chain == 9 && t.chv)
      (placed 0x00100002 { stream .cbc .text .dec with din := 9, chain := 4 }) = true := by decide

/-- 95_test_vectors.md section 7.1: a partial block of CBC. -/
theorem test_step_block_cbc_partial :
    nextWith (fun t => statusWord t == 0x00020206) (placed 0x00080002 (stream .cbc .text .enc)) = true := by decide

/-- 42_gcm.md R221: J0 keeps the masked chunk, IVLEN counts bytes. -/
theorem test_step_gcmIv :
    nextWith (fun t => t.j0 == 0xcafebabefacedbaddecaf88800000000 && t.ivlen == 12 && t.pcl && t.phase == .gcmIv)
      (placed 0x000C0003 { stream .gcm .gcmIv .enc with din := 0xcafebabefacedbaddecaf888ffffffff }) = true := by
  decide

/-- 42_gcm.md R222, example 1: the 12-byte path. -/
theorem test_step_gcmIvend :
    nextWith (fun t => t.j0 == 0xcafebabefacedbaddecaf88800000001 && t.chain == 0xcafebabefacedbaddecaf88800000002
        && t.accS == 0 && t.phase == .gcmAad && !t.pcl)
      (placed 0x00000004 { stream .gcm .gcmIv .enc with
        j0 := 0xcafebabefacedbaddecaf88800000000, ivlen := 12, accS := 5, pcl := true }) = true := by decide

/-- 42_gcm.md R223: AADLEN counts bits. -/
theorem test_step_gcmAad :
    nextWith (fun t => t.aadlen == 160 && t.pcl && t.phase == .gcmAad)
      (placed 0x00040005 { stream .gcm .gcmAad .enc with aadlen := 128 }) = true := by decide

/-- 42_gcm.md R224: CLEN counts bytes, the phase becomes GCM_TEXT. -/
theorem test_step_block_gcm :
    nextWith (fun t => t.clen == 60 && t.phase == .gcmText && t.pcl && t.chain == 3)
      (placed 0x000C0002 { stream .gcm .gcmText .enc with clen := 48, chain := 2 }) = true := by decide

/-- 42_gcm.md R226: GCM_FINISH asks the cipher for J0 and leaves the tag flags of an encryption. -/
theorem test_step_gcmFinish :
    nextWith (fun t => t.cipherReqs == [.forward 8] && t.phase == .gcmDone && !t.tagchk && !t.tagok && !t.pcl)
      (placed 0x00000006 { stream .gcm .gcmText .enc with j0 := 8, pcl := true }) = true := by decide

/-- 42_gcm.md R226: GCM_FINISH twice fails with SEQUENCE. -/
theorem test_step_gcmFinish_twice :
    nextWith (fun t => statusWord t == 0x00000506) (placed 0x00000006 (stream .gcm .gcmDone .enc)) = true := by decide

theorem test_step_ghLoadh :
    nextWith (fun t => statusWord t == 0x00010002 && t.subkeyH == 6)
      (placed 0x00000010 { State.reset with din := 6 }) = true := by decide

theorem test_step_ghClear :
    nextWith (fun t => t.accS == 0) (placed 0x00000011 { State.reset with accS := 5 }) = true := by decide

theorem test_step_ghSets :
    nextWith (fun t => t.accS == 0xed56aaf8a72d67049fdb9228edba1322)
      (placed 0x00000012 { State.reset with din := 0xed56aaf8a72d67049fdb9228edba1322 }) = true := by decide

/-- 43_galois.md R274's example. -/
theorem test_step_ghMulx :
    nextWith (fun t => t.dout == 0xe1000000000000000000000000000000)
      (placed 0x00000016 { State.reset with din := 1 }) = true := by decide

/-- 44_utilities.md R301's example. -/
theorem test_step_utInc32 :
    nextWith (fun t => t.dout == 0x000102030405060708090a0b00000000)
      (placed 0x00000020 { State.reset with din := 0x000102030405060708090a0bffffffff }) = true := by decide

/-- 43_galois.md R272's example, on a state whose table is not needed. -/
theorem test_exec_ghMulref :
    nextWith (fun t => t.dout == 0x5e2ec746917062882c85b0685353deb7)
      (exec .ghMulref { State.reset with
        tblv := true, subkeyH := 0x66e94bd4ef8a2c3b884cfa59ca342b2e
        din := 0x0388dace60b6a392f328c2b971b2fe78 }) = true := by decide +kernel

/-! ### States that meet the statements' hypotheses -/

/-- A GCM stream in a phase, with a valid table. -/
def gcmStream (p : Phase) (d : Dir) : State :=
  { State.reset with
    cfgMode := some .gcm, phase := p, cfgDir := d, cfgTlen := 128, subkeyH := 7, table := buildTable 7, tblv := true }

theorem gcmStream_meets_invariant (p : Phase) (d : Dir) (hp : p ≠ .text) : Inv (gcmStream p d) := by
  constructor <;> simp [gcmStream, State.reset, hp]

theorem stream_meets_invariant (m : Mode) (d : Dir) (hm : m ≠ .gcm) : Inv (stream m .text d) := by
  constructor <;> cases m <;> simp_all [stream, State.reset, canBeClosed, isGcmPhase]

theorem reset_meets_invariant_for_witness : Inv { State.reset with done := true } := by
  constructor <;> simp [State.reset, isGcmPhase]

/-- A state with a pending command that commits at the next tick. -/
def pending (w : Word) (n : Nat) : State :=
  { State.reset with pend := some ⟨w, n⟩ }

/-! ### The words -/

theorem witness_DecodeInvertsEncode : (Instr.block 1).wf = true ∧ (Instr.start 7 .dec true 31 255).wf = true := by decide

theorem witness_EncodeInvertsDecode : decode 0x00100002 = .ok (.block 16) := by decide

theorem witness_OperationFieldSelectsCommand :
    decode 0x00000020 = .ok .utInc32
    ∧ ∀ w ∈ [0x00000007#32, 0x0000000F#32, 0x00000017#32, 0x00000021#32, 0x000000FF#32],
      (w.extractLsb' 0 8).toNat ∉
        [0x00, 0x01, 0x02, 0x03, 0x04, 0x05, 0x06, 0x10, 0x11, 0x12, 0x13, 0x14, 0x15, 0x16, 0x20] :=
  ⟨rfl, by simp⟩

/-- One word for each way to break a field, in the order of the statement. -/
theorem witness_ReservedOrUnusedBitsFail :
    (Opcode.start.bits = (0x00008001#32).extractLsb' 0 8 ∧ (0x00008001#32).extractLsb' 13 3 ≠ 0)
    ∧ (Opcode.block.bits = (0x00300002#32).extractLsb' 0 8 ∧ (0x00300002#32).extractLsb' 21 3 ≠ 0)
    ∧ (Opcode.block.bits = (0x00101002#32).extractLsb' 0 8 ∧ (0x00101002#32).extractLsb' 8 5 ≠ 0)
    ∧ (Opcode.nop.bits = (0x80000000#32).extractLsb' 0 8 ∧ (0x80000000#32).extractLsb' 24 8 ≠ 0)
    ∧ (Opcode.nop.bits = (0x00010000#32).extractLsb' 0 8 ∧ (0x00010000#32).extractLsb' 16 5 ≠ 0
      ∧ Opcode.nop ∉ [Opcode.start, .block, .gcmIv, .gcmAad, .ghStep]) := by decide

theorem witness_ByteCountOutsideRangeFails :
    (0#5).toNat = 0 ∧ 16 < (17#5).toNat ∧ 16 < (31#5).toNat := by decide

/-! ### The steps -/

theorem witness_StepRunsDecodedCommand :
    hostPhase (pending 0x20 0) = .next (pending 0x20 0) ∧ (pending 0x20 0).pend = some ⟨0x20, 0⟩
    ∧ decode 0x20 = .ok .utInc32 ∧ (pending 0x20 0).inputs = [] ∧ decodeTableWord 32 0x20 = some .utInc32 :=
  ⟨rfl, rfl, rfl, rfl, rfl⟩

/-- A wait of two with an idle host, one that a host write falls in, the last wait before the commit, and none pending. -/
theorem witness_PendingCommandCommitsWhenItsLatencyEnds :
    (({ pending 0x20 2 with inputs := [.idle] }).pend = some ⟨0x20, 2⟩
      ∧ ∀ e ∈ ({ pending 0x20 2 with inputs := [.idle] }).inputs, e = .idle)
    ∧ (hostPhase { pending 0x20 2 with inputs := [.write (base + 4) 4 0xF 2] } = .next (busWrite 4 2 (pending 0x20 2))
      ∧ (busWrite 4 2 (pending 0x20 2)).pend = some ⟨0x20, 1 + 1⟩)
    ∧ (hostPhase (pending 0x20 1) = .next (pending 0x20 1) ∧ (pending 0x20 1).pend = some ⟨0x20, 0 + 1⟩)
    ∧ (hostPhase State.reset = .next State.reset ∧ State.reset.pend = none) :=
  ⟨⟨rfl, by simp⟩, ⟨hostEvent_write _ _ (by decide) (by decide), rfl⟩, ⟨rfl, rfl⟩, ⟨rfl, rfl⟩⟩

theorem witness_OperandsHoldWhileCommandPends :
    (pending 0x20 2).pend ≠ none
    ∧ hostEvent (.write (base + 0x020) 4 0xF 5) (pending 0x20 2) = .next (busWrite 0x020 5 (pending 0x20 2))
    ∧ hostEvent .hardReset (pending 0x20 2) = .next (resetBlock (pending 0x20 2)) :=
  ⟨by decide, hostEvent_write _ _ (by decide) (by decide), rfl⟩

theorem witness_ResetTakesEffectAtOnce :
    ({ pending 0x20 2 with inputs := [.hardReset] }).inputs = [.hardReset]
    ∧ (0x80000003#32).getLsbD 31 = true
    ∧ ({ pending 0x20 2 with inputs := [.write base 4 0xF 0x80000003] }).inputs
      = [HostEvent.write base 4 0xF 0x80000003] := ⟨rfl, rfl, rfl⟩

/-! ### The window -/

theorem witness_ReadsReturnTheRegisterMap :
    (gcmStream .gcmAad .enc).pend = none ∧ (gcmStream .gcmAad .enc).tblv = true := ⟨rfl, rfl⟩

theorem witness_UnspecifiedReadsAreFreeValues :
    (pending 0x20 0).pend ≠ none ∧ State.reset.tblv = false
    ∧ ∀ off ∈ [0x030, 0x0B4, 0x0D0, 0x0DC], off < 256 ∧ (0x030 ≤ off ∧ off < 0x0B8 ∨ 0x0D0 ≤ off ∧ off < 0x0E0) := by
  decide

theorem witness_WritesFollowTheRegisterMap :
    (0x7FFFFFFF#32).getLsbD 31 = false ∧ (0x80000000#32).getLsbD 31 = true
    ∧ State.reset.pend = none ∧ (pending 0x20 0).pend ≠ none
    ∧ ∀ off ∈ [0x00C, 0x010, 0x030, 0x0BC, 0x0C4, 0x0FC], off < 256 ∧ off % 4 = 0
        ∧ off ∉ [0x000, 0x004, 0x008, 0x020, 0x024, 0x028, 0x02C, 0x0C0] := by decide

/-- Off a word boundary at both ends of the window, a wrong width, a missing strobe, the last word, and just above. -/
theorem witness_UnsupportedAccessesAreRefused :
    (1 < 256 ∧ 1 % 4 ≠ 0) ∧ (255 < 256 ∧ 255 % 4 ≠ 0) ∧ 8 ≠ 4 ∧ 7#4 ≠ 0xF ∧ (252 < 256 ∧ 252 % 4 = 0)
    ∧ base + 256 ≤ base + 256 :=
  ⟨by decide, by decide, by decide, by decide, by decide, Nat.le_refl _⟩

theorem witness_StatusControlAndConfigurationWords :
    Inv { State.reset with done := true } ∧ (statusWord { State.reset with done := true }).getLsbD 2 = false
    ∧ ({ State.reset with done := true }).err = false :=
  ⟨reset_meets_invariant_for_witness, by decide, rfl⟩

/-- A pending UT_INC32 whose commit falls in the step of a write of v to STATUS. -/
def clearedAtCommit (v : Word) : State :=
  { pending 0x20 0 with inputs := [.write (base + 4) 4 0xF v], done := true, err := true, errcode := 5 }

theorem witness_StatusWriteClearsAndCommitWins :
    (clearedAtCommit 0xE).inputs = [.write (base + 4) 4 0xF 0xE] ∧ (clearedAtCommit 0xE).pend = some ⟨0x20, 0⟩ :=
  ⟨rfl, rfl⟩

theorem witness_DoneMarksEveryCommit :
    (pending 0x20 0).pend ≠ none
    ∧ (hostEvent (.write (base + 4) 4 0xF 2) { State.reset with done := true }
        = .next (busWrite 4 2 { State.reset with done := true })
      ∧ (busWrite 4 2 { State.reset with done := true }).done = false)
    ∧ (clearedAtCommit 2).inputs = [.write (base + 4) 4 0xF 2] ∧ ∃ t, step (clearedAtCommit 2) = .next t := by
  refine ⟨by decide, ⟨hostEvent_write _ _ (by decide) (by decide), by decide⟩, rfl, ?_⟩
  have h : hostPhase (clearedAtCommit 2) = .next (busWrite 4 2 { clearedAtCommit 2 with inputs := [] }) :=
    hostEvent_write _ _ (by decide) (by decide)
  obtain ⟨t, ht⟩ := commitWord_next 0x20 (busWrite 4 2 { clearedAtCommit 2 with inputs := [] })
  exact ⟨t, by rw [step, h]; exact ht⟩

theorem witness_InterruptFollowsFlagsAndEnables :
    (∃ t, commitWord 0x20 { State.reset with ieDone := true } = .next t)
    ∧ exec .ghMulref { State.reset with ieErr := true }
      = .next (errorState false .noKey { State.reset with ieErr := true })
    ∧ ({ pending 0x20 0 with ieErr := true }).pend ≠ none
    ∧ (0x0000000E#32).getLsbD 1 = true ∧ (0x0000000E#32).getLsbD 2 = true ∧ (0x0000000E#32).getLsbD 3 = true :=
  ⟨commitWord_next _ _, rfl, by decide, rfl, rfl, rfl⟩

/-! ### The errors -/

theorem witness_FirstErrorIsKept :
    (∃ t, commitWord 0x07 { State.reset with err := true, errcode := 5 } = .next t) ∧ State.reset.err = false
    ∧ hostEvent (.write (base + 4) 4 0xF 4) { State.reset with err := true, errcode := 5 }
      = .next (busWrite 4 4 { State.reset with err := true, errcode := 5 })
    ∧ (busWrite 4 4 { State.reset with err := true, errcode := 5 }).err = false :=
  ⟨commitWord_next _ _, rfl, hostEvent_write _ _ (by decide) (by decide), by decide⟩

theorem witness_AcceptanceMatrixDecidesStreamCommands :
    (Inv (gcmStream .gcmIv .enc) ∧ acceptance .gcmFinish .gcmIv false = some .noIv)
    ∧ (Inv (gcmStream .gcmAad .enc) ∧ acceptance .gcmFinish .gcmAad false = none)
    ∧ (Inv (stream .cbc .text .enc) ∧ (Instr.block 15).wf = true ∧ acceptance .block .text false = none)
    ∧ Opcode.gcmFinish.isStream = true ∧ Opcode.gcmFinish ≠ .start :=
  ⟨⟨gcmStream_meets_invariant _ _ (by decide), rfl⟩, ⟨gcmStream_meets_invariant _ _ (by decide), rfl⟩,
    ⟨stream_meets_invariant _ _ (by decide), by decide, rfl⟩, rfl, by decide⟩

/-- A START of each error, in the order of the rule, and two that run. -/
theorem witness_StartChecksInOrder :
    startError 6 .enc true 31 255 false = some .illegalField ∧ startError 1 .enc true 17 0 false = some .illegalField
    ∧ startError 1 .enc true 16 0 false = some .illegalField ∧ startError 5 .dec true 16 136 false = some .illegalField
    ∧ startError 5 .enc true 1 128 false = some .illegalField ∧ startError 5 .enc true 0 8 false = some .noIv
    ∧ startError 1 .dec true 0 0 false = some .noPriorBlock ∧ startError 5 .dec false 15 0 true = some .tagLenMismatch
    ∧ startError 5 .dec false 1 8 false = none ∧ startError 1 .enc true 0 0 true = none := by decide

/-! ### The stream commands -/

theorem witness_NopOnlyCompletes : (0x00000100#32).extractLsb' 0 8 = 0 ∧ 0x00000100#32 ≠ 0 := by decide

theorem witness_StartCbcLoadsOrKeepsChain : (stream .cbc .text .dec).chv = true := rfl

theorem witness_StartKeystreamLoadsChain :
    (2#3 = 2 ∧ Mode.cfb = .cfb) ∧ (3#3 = 3 ∧ Mode.ofb = .ofb) ∧ (4#3 = 4 ∧ Mode.ctr = .ctr) := by decide

/-- Encryption with the default tag, decryption with the shortest and the longest. -/
theorem witness_StartGcmDerivesSubkeyAndTable :
    (0#8 = 0 ∧ 0#5 = 0)
    ∧ ((8#8).toNat % 8 = 0 ∧ 8 ≤ (8#8).toNat ∧ (8#8).toNat ≤ 128 ∧ 8 * (1#5).toNat = (8#8).toNat)
    ∧ ((128#8).toNat % 8 = 0 ∧ (128#8).toNat ≤ 128 ∧ 8 * (16#5).toNat = (128#8).toNat) := by decide

theorem witness_PhaseMovesFollowTheTable :
    (Inv (gcmStream .gcmText .enc) ∧ ∃ t, exec .gcmFinish (gcmStream .gcmText .enc) = .next t)
    ∧ (Inv (gcmStream .gcmDone .enc) ∧ ∃ t, exec (.block 1) (gcmStream .gcmDone .enc) = .next t) :=
  ⟨⟨gcmStream_meets_invariant _ _ (by decide), exec_next _ _⟩,
    ⟨gcmStream_meets_invariant _ _ (by decide), exec_next _ _⟩⟩

theorem witness_RegistersChangeOnlyUnderTheirCommands :
    (∃ t, exec (.block 16) (stream .ctr .text .enc) = .next t) ∧ (stream .ctr .text .enc).cfgMode ≠ some .gcm
    ∧ ∃ t, exec (.start 4 .enc false 0 0) (gcmStream .gcmDone .dec) = .next t :=
  ⟨exec_next _ _, by decide, exec_next _ _⟩

theorem witness_CipherRequestsFollowTheTable :
    Inv (stream .cbc .text .dec) ∧ (∃ t, exec (.block 16) (stream .cbc .text .dec) = .next t)
    ∧ ∃ t, exec (.block 15) (stream .cbc .text .dec) = .next t :=
  ⟨stream_meets_invariant _ _ (by decide), exec_next _ _, exec_next _ _⟩

/-- The states of a text stream, for the statements on BLOCK in CBC, CFB, OFB and CTR, at both ends of the byte count. -/
theorem witness_CbcBlocksChainCiphertext (d : Dir) :
    (stream .cbc .text d).phase ≠ .idle ∧ (stream .cbc .text d).cfgMode = some .cbc ∧ (stream .cbc .text d).pcl = false
    ∧ (stream .cbc .text d).cfgDir = d := ⟨Phase.noConfusion, rfl, rfl, rfl⟩

theorem witness_CfbBlocksFeedBackCiphertext (d : Dir) :
    (1 ≤ (1#5).toNat ∧ (16#5).toNat ≤ 16) ∧ (stream .cfb .text d).phase ≠ .idle
    ∧ (stream .cfb .text d).cfgMode = some .cfb ∧ (stream .cfb .text d).pcl = false
    ∧ (stream .cfb .text d).cfgDir = d := ⟨by decide, Phase.noConfusion, rfl, rfl, rfl⟩

theorem witness_OfbAndCtrBlocksIgnoreDirection (d : Dir) :
    (1 ≤ (1#5).toNat ∧ (16#5).toNat ≤ 16) ∧ (stream .ofb .text d).phase ≠ .idle
    ∧ (stream .ofb .text d).cfgMode = some .ofb ∧ (stream .ofb .text d).pcl = false
    ∧ (stream .ctr .text d).phase ≠ .idle ∧ (stream .ctr .text d).cfgMode = some .ctr
    ∧ (stream .ctr .text d).pcl = false := ⟨by decide, Phase.noConfusion, rfl, rfl, Phase.noConfusion, rfl, rfl⟩

/-- A whole chunk and a chunk of one byte. -/
def chunks : List (Block × BitVec 5) :=
  [(3, 16), (4, 1)]

theorem witness_CbcStreamsChainEveryBlock (d : Dir) :
    textReady .cbc (stream .cbc .text d) ∧ (stream .cbc .text d).cfgDir = d := ⟨⟨rfl, rfl, rfl⟩, rfl⟩

theorem witness_CtrKeystreamFollowsCounter :
    textReady .ctr (stream .ctr .text .enc) ∧ chunksLegal chunks = true := ⟨⟨rfl, rfl, rfl⟩, by decide⟩

theorem witness_KeystreamModesRoundTrip (m : Mode) :
    textReady m (stream m .text .enc) ∧ textReady m (stream m .text .dec) ∧ (stream m .text .enc).cfgDir = .enc
    ∧ (stream m .text .dec).cfgDir = .dec ∧ (stream m .text .dec).chain = (stream m .text .enc).chain
    ∧ chunksLegal chunks = true := ⟨⟨rfl, rfl, rfl⟩, ⟨rfl, rfl, rfl⟩, rfl, rfl, rfl, by decide⟩

theorem witness_CbcRoundTripsUpToCipher :
    textReady .cbc (stream .cbc .text .enc) ∧ textReady .cbc (stream .cbc .text .dec)
    ∧ (stream .cbc .text .enc).cfgDir = .enc ∧ (stream .cbc .text .dec).cfgDir = .dec
    ∧ (stream .cbc .text .dec).chain = (stream .cbc .text .enc).chain :=
  ⟨⟨rfl, rfl, rfl⟩, ⟨rfl, rfl, rfl⟩, rfl, rfl, rfl⟩

theorem witness_DirectionDoesNotMatterInOfbAndCtr :
    (stream .ofb .text .enc).cfgMode = some .ofb ∧ (stream .ctr .text .enc).cfgMode = some .ctr := ⟨rfl, rfl⟩

/-- 15 bytes, and a block that differs in its last one; one byte, and a block that differs in its second. -/
theorem witness_BytesBeyondTheCountAreIgnored :
    (nbLegal 15 = true ∧ mask 0xFF (15#5).toNat = mask State.reset.din (15#5).toNat)
    ∧ (nbLegal 1 = true ∧ mask (0xFF#128 <<< 112) (1#5).toNat = mask State.reset.din (1#5).toNat) := by decide

/-! ### GCM -/

theorem witness_GcmIvFoldsOneChunk :
    (1 ≤ (1#5).toNat ∧ (16#5).toNat ≤ 16) ∧ (gcmStream .gcmIv .enc).phase = .gcmIv
    ∧ (gcmStream .gcmIv .enc).cfgMode = some .gcm ∧ (gcmStream .gcmIv .enc).pcl = false := ⟨by decide, rfl, rfl, rfl⟩

/-- Both paths of the IV: 12 bytes and none. -/
theorem witness_GcmIvendDerivesFirstCounter :
    ({ gcmStream .gcmIv .enc with ivlen := 12 }).phase = .gcmIv
    ∧ ({ gcmStream .gcmIv .enc with ivlen := 12 }).cfgMode = some .gcm
    ∧ ({ gcmStream .gcmIv .enc with ivlen := 12 }).ivlen.toNat = 12
    ∧ (gcmStream .gcmIv .enc).ivlen.toNat ≠ 12 := ⟨rfl, rfl, rfl, by decide⟩

theorem witness_GcmAadFoldsOneChunk :
    (1 ≤ (1#5).toNat ∧ (16#5).toNat ≤ 16) ∧ (gcmStream .gcmAad .enc).phase = .gcmAad
    ∧ (gcmStream .gcmAad .enc).cfgMode = some .gcm ∧ (gcmStream .gcmAad .enc).pcl = false := ⟨by decide, rfl, rfl, rfl⟩

/-- The first text block after a partial AAD chunk, and a later text block. -/
theorem witness_GcmBlocksHashCiphertext (d : Dir) :
    ({ gcmStream .gcmAad d with pcl := true }).phase = .gcmAad ∧ (gcmStream .gcmText d).phase = .gcmText
    ∧ (gcmStream .gcmText d).pcl = false ∧ (gcmStream .gcmText d).cfgMode = some .gcm := ⟨rfl, rfl, rfl, rfl⟩

theorem witness_GcmFinishFormsTag (d : Dir) :
    (gcmStream .gcmAad d).cfgMode = some .gcm ∧ (gcmStream .gcmAad d).phase = .gcmAad
    ∧ (gcmStream .gcmText d).phase = .gcmText := ⟨rfl, rfl, rfl⟩

theorem witness_TagIsTruncatedAndComparedByItsLeadingBits (d : Dir) :
    Inv (gcmStream .gcmText d) ∧ (gcmStream .gcmText d).cfgMode = some .gcm ∧ (gcmStream .gcmText d).phase = .gcmText
    ∧ ∃ t, exec .gcmFinish (gcmStream .gcmText d) = .next t :=
  ⟨gcmStream_meets_invariant _ _ (by decide), rfl, rfl, exec_next _ _⟩

/-- An IV of 12 bytes in one chunk, and one of 17 in two. -/
theorem witness_PreCounterBlockOfAnyIv :
    Inv (gcmStream .gcmIv .enc) ∧ (gcmStream .gcmIv .enc).phase = .gcmIv ∧ (gcmStream .gcmIv .enc).pcl = false
    ∧ (gcmStream .gcmIv .enc).accS = 0 ∧ (gcmStream .gcmIv .enc).ivlen = 0
    ∧ (gcmStream .gcmIv .enc).cfgMode = some .gcm
    ∧ (chunksLegal [(5, 12)] = true ∧ totalBytes [(5, 12)] = 12)
    ∧ (chunksLegal chunks = true ∧ totalBytes chunks = 17) :=
  ⟨gcmStream_meets_invariant _ _ (by decide), rfl, rfl, rfl, rfl, rfl, by decide, by decide⟩

theorem witness_GcmEncryptStreamLaw :
    Inv (gcmStream .gcmAad .enc) ∧ (gcmStream .gcmAad .enc).phase = .gcmAad
    ∧ (gcmStream .gcmAad .enc).cfgMode = some .gcm ∧ (gcmStream .gcmAad .enc).cfgDir = .enc
    ∧ (gcmStream .gcmAad .enc).pcl = false ∧ (gcmStream .gcmAad .enc).accS = 0 ∧ (gcmStream .gcmAad .enc).aadlen = 0
    ∧ (gcmStream .gcmAad .enc).clen = 0 ∧ chunksLegal chunks = true :=
  ⟨gcmStream_meets_invariant _ _ (by decide), rfl, rfl, rfl, rfl, rfl, rfl, rfl, by decide⟩

theorem witness_GcmDecryptAcceptsExactlyTheEncryptTag :
    Inv (gcmStream .gcmAad .enc) ∧ (gcmStream .gcmAad .enc).cfgDir = .enc ∧ (gcmStream .gcmAad .enc).pcl = false
    ∧ chunksLegal chunks = true
    ∧ ∃ t, exec .gcmFinish (feed .block chunks (feed .gcmAad chunks (gcmStream .gcmAad .enc))) = .next t :=
  ⟨gcmStream_meets_invariant _ _ (by decide), rfl, rfl, by decide, exec_next _ _⟩

/-! ### The multiplier and the invariant -/

theorem witness_TableProductIsReferenceProduct :
    Inv (gcmStream .gcmDone .enc) ∧ (gcmStream .gcmDone .enc).tblv = true :=
  ⟨gcmStream_meets_invariant _ _ (by decide), rfl⟩

theorem witness_NibblesOfABlockAreNibblesOfItsWords : 0 < 32 ∧ 31 < 32 := by decide

theorem witness_GhLoadhBuildsTheTable : State.reset.din = 0 ∧ 31 < 32 ∧ 15 < 16 := ⟨rfl, by decide, by decide⟩

theorem witness_GhStepFoldsOneBlock :
    (1 ≤ (1#5).toNat ∧ (16#5).toNat ≤ 16) ∧ (gcmStream .gcmDone .enc).tblv = true ∧ State.reset.tblv = false :=
  ⟨by decide, rfl, rfl⟩

theorem witness_ProductCommandsAgree :
    (Inv (gcmStream .gcmDone .enc) ∧ (gcmStream .gcmDone .enc).tblv = true) ∧ State.reset.tblv = false :=
  ⟨witness_TableProductIsReferenceProduct, rfl⟩

/-- One step that commits a command from a state of the invariant. -/
theorem witness_EveryStepKeepsInvariant :
    Inv { pending 0x10 0 with done := true } ∧ ∃ t, step { pending 0x10 0 with done := true } = .next t := by
  refine ⟨?_, exec_next .ghLoadh { pending 0x10 0 with done := true }⟩
  constructor <;> simp [pending, State.reset, isGcmPhase]

end Sys2Proof.Tests
end

section
/-! PROOF. The bytes of DIN from B(NB) on: a block command reads DIN through the byte mask alone, or takes NB = 16, in
CBC. -/

namespace Sys2Proof.Machine

/-- A commit whose checks do not read DIN passes a change of DIN through, when its effect does so wherever its checks
pass. -/
theorem commit_withDin {op : Opcode} {checks : List Check} {effect : State → State} {x : Block} {s : State}
    (heffect : firstFailure checks = none → effect { s with din := x } = { effect s with din := x }) :
    ∃ t, commit op checks effect s = .next t
      ∧ commit op checks effect { s with din := x } = .next { t with din := x } := by
  cases hchecks : firstFailure checks with
  | some e => exact ⟨_, commit_of_failure hchecks, commit_of_failure hchecks⟩
  | none =>
    refine ⟨_, commit_of_success hchecks, ?_⟩
    rw [commit_of_success hchecks, heffect hchecks]
    rfl

/-- BLOCK in CBC takes whole blocks only (40_control.md R166). -/
theorem byteCount_of_blockChecks_cbc {nb : BitVec 5} {s : State} (hchecks : firstFailure (blockChecks nb s) = none)
    (hmode : s.cfgMode = some .cbc) : nb = 16 := by
  have hall := (firstFailure_eq_none _).mp hchecks
  simpa [hmode] using hall ⟨.illegalField, s.cfgMode != some .cbc || nb == 16⟩ (by simp [blockChecks, hmode])

/-- The text of a keystream mode reads DIN through the mask alone. -/
theorem keystreamText_eq (nb : BitVec 5) (s : State) :
    keystreamText nb s = maskNb s.din nb ^^^ maskNb (Config.cipherE s.chain) nb :=
  mask_xor _ _ _

section

variable {nb : BitVec 5} {x : Block} {s : State}

/-- The body of BLOCK, where its checks pass: in CBC the changed DIN is the old one, since NB is 16, and the other modes
read DIN through the mask alone. -/
theorem blockBody_withDin (hx : maskNb x nb = maskNb s.din nb) (hchecks : firstFailure (blockChecks nb s) = none) :
    blockBody nb { s with din := x } = { blockBody nb s with din := x } := by
  have hcbc (hmode : s.cfgMode = some .cbc) : x = s.din := by
    simpa [byteCount_of_blockChecks_cbc hchecks hmode, maskNb] using hx
  rcases hmode : s.cfgMode with _ | mode
  · simp only [blockBody, hmode]
  cases mode with
  | cbc =>
    cases hdir : s.cfgDir <;>
      simp only [blockBody, hmode, hdir, cbcEncrypt, cbcDecrypt, hcbc hmode, requestForward, requestInverse]
  | cfb =>
    cases hdir : s.cfgDir <;>
      simp only [blockBody, hmode, hdir, cfbEncrypt, cfbDecrypt, keystreamText_eq, hx, requestForward]
  | ofb => simp only [blockBody, hmode, ofbBlock, keystreamText_eq, hx, requestForward]
  | ctr => simp only [blockBody, hmode, ctrBlock, keystreamText_eq, hx, requestForward]
  | gcm =>
    cases hdir : s.cfgDir <;>
      simp only [blockBody, hmode, hdir, gcmEncrypt, gcmDecrypt, gcmBlock, keystreamText_eq, hx, ghashStep,
        requestForward]

theorem blockEffect_withDin (hx : maskNb x nb = maskNb s.din nb) (hchecks : firstFailure (blockChecks nb s) = none) :
    blockEffect nb { s with din := x } = { blockEffect nb s with din := x } := by
  rw [blockEffect, blockBody_withDin hx hchecks]
  rfl

theorem ghashStep_withDin (hx : maskNb x nb = maskNb s.din nb) :
    ghashStep (maskNb x nb) { s with din := x } = { ghashStep (maskNb s.din nb) s with din := x } := by
  rw [hx]
  rfl

theorem gcmIvEffect_withDin (hx : maskNb x nb = maskNb s.din nb) :
    gcmIvEffect nb { s with din := x } = { gcmIvEffect nb s with din := x } := by
  simp only [gcmIvEffect, hx, ghashStep]

theorem gcmAadEffect_withDin (hx : maskNb x nb = maskNb s.din nb) :
    gcmAadEffect nb { s with din := x } = { gcmAadEffect nb s with din := x } := by
  simp only [gcmAadEffect, hx, ghashStep]

end

/-- Settles O38: each block command is a commit whose checks do not read DIN and whose effect passes the change of DIN
through. That NB is legal is not needed: with another NB both commits fail the first check. -/
theorem bytesBeyondTheCountAreIgnored : Obligations.BytesBeyondTheCountAreIgnored := by
  intro nb x s _ hx i hi
  replace hx : maskNb x nb = maskNb s.din nb := hx
  simp only [List.mem_cons, List.not_mem_nil, or_false] at hi
  obtain rfl | rfl | rfl | rfl := hi
  · rw [exec_block, exec_block]
    exact commit_withDin (blockEffect_withDin hx)
  · rw [exec_gcmIv, exec_gcmIv]
    exact commit_withDin fun _ => gcmIvEffect_withDin hx
  · rw [exec_gcmAad, exec_gcmAad]
    exact commit_withDin fun _ => gcmAadEffect_withDin hx
  · rw [exec_ghStep, exec_ghStep]
    exact commit_withDin fun _ => ghashStep_withDin hx

end Sys2Proof.Machine
end

section
/-! PROOF. What a command does to the state: its checks, its effect, and the registers that the effect leaves as they were. -/

namespace Sys2Proof.Machine

/-! ### A command as its checks and its effect -/

/-- The checks that the commit of a command makes, in their order (40_control.md, the template). -/
def checksOf (i : Instr) (s : State) : List Check :=
  match i with
  | .start mode dir leg nb tlen => startChecks mode dir leg nb tlen s
  | .block nb => blockChecks nb s
  | .gcmIv nb => nbCheck nb :: gcmStreamChecks s ++ [⟨.sequence, s.phase == .gcmIv && !s.pcl⟩]
  | .gcmIvend => gcmStreamChecks s ++ [⟨.sequence, s.phase == .gcmIv⟩]
  | .gcmAad nb =>
    nbCheck nb :: gcmStreamChecks s ++ [⟨.noIv, s.phase != .gcmIv⟩, ⟨.sequence, s.phase == .gcmAad && !s.pcl⟩]
  | .gcmFinish => gcmStreamChecks s ++ [⟨.noIv, s.phase != .gcmIv⟩, ⟨.sequence, s.phase != .gcmDone⟩]
  | .ghStep nb => [nbCheck nb, keyCheck s]
  | .ghMulref | .ghMultbl => [keyCheck s]
  | .nop | .ghLoadh | .ghClear | .ghSets | .ghMulx | .utInc32 => []

/-- The effect of a command whose checks pass. -/
def effectOf (i : Instr) (s : State) : State :=
  match i with
  | .nop => s
  | .start mode dir leg nb tlen => startEffect mode dir leg nb tlen s
  | .block nb => blockEffect nb s
  | .gcmIv nb => gcmIvEffect nb s
  | .gcmIvend => gcmIvendEffect s
  | .gcmAad nb => gcmAadEffect nb s
  | .gcmFinish => gcmFinishEffect s
  | .ghLoadh => loadSubkey s.din s
  | .ghClear => { s with accS := 0 }
  | .ghSets => { s with accS := s.din }
  | .ghStep nb => ghashStep (maskNb s.din nb) s
  | .ghMulref => { s with dout := gmulRef s.din s.subkeyH }
  | .ghMultbl => { s with dout := tmul s.table s.din }
  | .ghMulx => { s with dout := mulx s.din }
  | .utInc32 => { s with dout := inc32 s.din }

theorem exec_eq_commit_effectOf (i : Instr) (s : State) :
    exec i s = commit i.opcode (checksOf i s) (effectOf i) s := by
  cases i <;> rfl

/-- What a command can do: fail with the code of its first failing check, or succeed with its effect. -/
theorem exec_cases {i : Instr} {s t : State} (h : exec i s = .next t) :
    (∃ e, firstFailure (checksOf i s) = some e ∧ t = raiseError i.opcode.isStream e s)
    ∨ (firstFailure (checksOf i s) = none ∧ t = succeed (effectOf i s)) :=
  commit_cases (exec_eq_commit_effectOf i s ▸ h)

/-- What a command word can do: raise an error, or succeed as the command it decodes to. -/
theorem commitWord_cases {w : Word} {s t : State} (h : commitWord w s = .next t) :
    (∃ stream e, t = raiseError stream e s)
    ∨ ∃ i, decode w = .ok i ∧ firstFailure (checksOf i s) = none ∧ t = succeed (effectOf i s) := by
  unfold commitWord at h
  split at h
  · next i hi =>
    obtain ⟨e, -, ht⟩ | ⟨hchecks, ht⟩ := exec_cases h
    · exact .inl ⟨_, e, ht⟩
    · exact .inr ⟨i, hi, hchecks, ht⟩
  · next d hd =>
    obtain rfl : raiseDecodeError d s = t := by simpa using h
    cases d <;> exact .inl ⟨_, _, rfl⟩

/-! ### What the effects leave unchanged -/

/-- What BLOCK can write in any mode. -/
theorem blockEffect_frame (nb : BitVec 5) (s : State) :
    blockEffect nb s = { s with
      dout := (blockEffect nb s).dout, chain := (blockEffect nb s).chain, accS := (blockEffect nb s).accS
      clen := (blockEffect nb s).clen, chv := (blockEffect nb s).chv, phase := (blockEffect nb s).phase
      pcl := isPartial nb, cipherReqs := (blockEffect nb s).cipherReqs } := by
  unfold blockEffect blockBody
  split <;> rfl

/-- In a mode other than GCM, BLOCK leaves S, CLEN and PHASE too: the last two arms of its body are GCM's. -/
theorem blockEffect_frame_of_not_gcm (nb : BitVec 5) {s : State} (hmode : s.cfgMode ≠ some .gcm) :
    blockEffect nb s = { s with
      dout := (blockEffect nb s).dout, chain := (blockEffect nb s).chain, chv := (blockEffect nb s).chv
      pcl := isPartial nb, cipherReqs := (blockEffect nb s).cipherReqs } := by
  unfold blockEffect blockBody
  split
  case h_8 hgcm _ => exact absurd hgcm hmode
  case h_9 hgcm _ => exact absurd hgcm hmode
  all_goals rfl

/-- In a mode other than GCM, BLOCK sets CHV in CBC and else leaves it. -/
theorem blockEffect_chv_of_not_gcm (nb : BitVec 5) {s : State} (hmode : s.cfgMode ≠ some .gcm) :
    (blockEffect nb s).chv = (s.chv || s.cfgMode == some .cbc) := by
  unfold blockEffect blockBody
  split
  case h_8 hgcm _ => exact absurd hgcm hmode
  case h_9 hgcm _ => exact absurd hgcm hmode
  all_goals simp [*, cbcEncrypt, cbcDecrypt, cfbEncrypt, cfbDecrypt, ofbBlock, ctrBlock]

theorem modeOf_eq_gcm {mode : BitVec 3} : modeOf mode = some .gcm ↔ mode = 5 := by
  revert mode
  decide

section

variable (mode : BitVec 3) (dir : Dir) (leg : Bool) (nb : BitVec 5) (tlen : BitVec 8) (s : State)

/-- What START leaves unchanged in any mode: DOUT and what no command writes. -/
theorem startEffect_frame :
    startEffect mode dir leg nb tlen s = { startEffect mode dir leg nb tlen s with
      ieDone := s.ieDone, ieErr := s.ieErr, done := s.done, err := s.err, ovf := s.ovf, errcode := s.errcode
      din := s.din, dout := s.dout, tblIdx := s.tblIdx, pend := s.pend, inputs := s.inputs, rdata := s.rdata
      draws := s.draws } := by
  unfold startEffect
  split <;> rfl

/-- In a mode other than GCM, START writes no register but the configuration, CHAIN and the flags of the stream
(10_state.md R68). -/
theorem startEffect_frame_of_not_gcm (hmode : mode ≠ 5) :
    startEffect mode dir leg nb tlen s = { s with
      cfgMode := (startEffect mode dir leg nb tlen s).cfgMode, cfgDir := (startEffect mode dir leg nb tlen s).cfgDir
      cfgTlen := (startEffect mode dir leg nb tlen s).cfgTlen, pcl := (startEffect mode dir leg nb tlen s).pcl
      tagchk := (startEffect mode dir leg nb tlen s).tagchk, tagok := (startEffect mode dir leg nb tlen s).tagok
      chain := (startEffect mode dir leg nb tlen s).chain, chv := (startEffect mode dir leg nb tlen s).chv
      phase := (startEffect mode dir leg nb tlen s).phase } := by
  unfold startEffect
  split
  case h_6 hgcm => exact absurd (modeOf_eq_gcm.mp hgcm) hmode
  all_goals rfl

end

/-- No effect writes CTRL, DONE, ERR, ERRCODE, OVF, DIN, TBL_IDX, PEND or the model's fields of the host's side. -/
theorem effectOf_frame (i : Instr) (s : State) :
    effectOf i s = { effectOf i s with
      ieDone := s.ieDone, ieErr := s.ieErr, done := s.done, err := s.err, ovf := s.ovf, errcode := s.errcode
      din := s.din, tblIdx := s.tblIdx, pend := s.pend, inputs := s.inputs, rdata := s.rdata, draws := s.draws } := by
  cases i with
  | start mode dir leg nb tlen => rw [effectOf, startEffect_frame]
  | block nb => rw [effectOf, blockEffect_frame]
  | _ => rfl

/-- No effect reads PEND. -/
theorem effectOf_withPend (i : Instr) (p : Option Pending) (s : State) :
    effectOf i { s with pend := p } = { effectOf i s with pend := p } := by
  cases i with
  | start mode dir leg nb tlen =>
    simp only [effectOf, startEffect]
    split <;> rfl
  | block nb =>
    simp only [effectOf, blockEffect, blockBody]
    split <;> rfl
  | _ => rfl

/-! ### What a commit leaves unchanged -/

/-- A commit does not read PEND: it empties it. -/
theorem commitWord_withPend (w : Word) (p : Option Pending) (s : State) :
    commitWord w { s with pend := p } = commitWord w s := by
  unfold commitWord
  split
  · next i hi =>
    rw [exec_eq_commit_effectOf, exec_eq_commit_effectOf, commit, commit, effectOf_withPend]
    rfl
  · next d hd => cases d <;> rfl

/-- Every commit sets DONE (10_state.md R53). -/
theorem commitWord_done {w : Word} {s t : State} (h : commitWord w s = .next t) : t.done = true := by
  obtain ⟨stream, e, rfl⟩ | ⟨i, -, -, rfl⟩ := commitWord_cases h <;> rfl

/-- A commit raises ERR with a code of the table, the first code kept, or leaves ERR and ERRCODE (10_state.md R52). -/
theorem commitWord_err_cases {w : Word} {s t : State} (h : commitWord w s = .next t) :
    (t.err = true ∧ ∃ e, t.errcode = if s.err then s.errcode else errBits e)
    ∨ (t.err = s.err ∧ t.errcode = s.errcode) := by
  obtain ⟨stream, e, rfl⟩ | ⟨i, -, -, rfl⟩ := commitWord_cases h
  · exact .inl ⟨rfl, e, rfl⟩
  · exact .inr ⟨(congrArg State.err (effectOf_frame i s) :), (congrArg State.errcode (effectOf_frame i s) :)⟩

end Sys2Proof.Machine
end

section
/-! PROOF. What a host event does to the state, and how a tick and a step go on from there. -/

namespace Sys2Proof.Machine

/-! ### The register map -/

/-- The map names whole words. -/
theorem regAt_word (off : Nat) : regAt (4 * (off / 4)) = regAt off := by
  have hrow : 4 * (off / 4) / 16 = off / 16 := by omega
  have hword : wordOfOffset (4 * (off / 4)) = wordOfOffset off := Fin.ext (by simp [wordOfOffset])
  rw [regAt, regAt, hrow, hword]

/-- CTRL stands at offset 0 only (20_memory.md R84). -/
theorem offset_of_regAt_ctrl {off : Nat} (hoff : off < 256) (halign : off % 4 = 0) (h : regAt off = .ctrl) : off = 0 := by
  have hmap : ∀ k : Fin 64, regAt (4 * k) = .ctrl → k = 0 := by decide
  have hword : off / 4 = 0 := congrArg Fin.val (hmap ⟨off / 4, by omega⟩ ((regAt_word off).trans h))
  omega

/-- STATUS stands at offset 4 only (20_memory.md R84). -/
theorem offset_of_regAt_status {off : Nat} (hoff : off < 256) (halign : off % 4 = 0) (h : regAt off = .status) :
    off = 4 := by
  have hmap : ∀ k : Fin 64, regAt (4 * k) = .status → k = 1 := by decide
  have hword : off / 4 = 1 := congrArg Fin.val (hmap ⟨off / 4, by omega⟩ ((regAt_word off).trans h))
  omega

/-- The registers whose value a read leaves unspecified while a command is pending (20_memory.md R90). -/
def Reg.isResult : Reg → Bool
  | .block _ _ | .lengthHi _ | .lengthLo _ | .tblData _ => true
  | .ctrl | .status | .cmd | .cfg | .id | .din _ | .tblIdx | .reserved => false

/-- The result registers fill the offsets from 0x030 to 0x0B7 and TBL_DATA's four words (20_memory.md R84). -/
theorem regAt_isResult {off : Nat} (h : 0x030 ≤ off ∧ off < 0x0B8 ∨ 0x0D0 ≤ off ∧ off < 0x0E0) :
    (regAt off).isResult = true := by
  have hmap : ∀ k : Fin 64, 12 ≤ k.val ∧ k.val < 46 ∨ 52 ≤ k.val ∧ k.val < 56 → (regAt (4 * k)).isResult = true := by
    decide
  have hword := hmap ⟨off / 4, by omega⟩ (by dsimp only; omega)
  rwa [regAt_word] at hword

theorem regAt_tblData {off : Nat} (h : 0x0D0 ≤ off ∧ off < 0x0E0) : regAt off = .tblData (wordOfOffset off) := by
  have hrow : off / 16 = 0xD := by omega
  simp only [regAt, hrow]

/-! ### What a host event can do -/

/-- The two events that reset the block: the platform's reset, and a write of SRST to CTRL (10_state.md R56, R57). -/
def ResetEvent (e : HostEvent) : Prop :=
  e = .hardReset ∨ ∃ v : Word, v.getLsbD 31 = true ∧ e = .write base 4 0xF v

/-- What a host event can make of a state, by kind (20_memory.md R88 to R91). -/
inductive HostEffect (e : HostEvent) (s : State) : State → Prop
  /-- A reset. -/
  | reset (hevent : ResetEvent e) : HostEffect e s (resetBlock s)
  /-- A write to STATUS. -/
  | clear (v : Word) (hevent : e = .write (base + 4) 4 0xF v) : HostEffect e s (clearStatus v s)
  /-- A read, a write of the enables, or a write to a register that takes none. -/
  | quiet (ieDone ieErr : Bool) (rdata : Word) (draws : Nat) :
    HostEffect e s { s with ieDone := ieDone, ieErr := ieErr, rdata := rdata, draws := draws }
  /-- A write dropped because a command is pending. -/
  | dropped (hpend : s.pend ≠ none) : HostEffect e s (overrun s)
  /-- A write to CMD, DIN or TBL_IDX while none is. -/
  | accepted (hpend : s.pend = none) (din : Block) (tblIdx : BitVec 9) (pend : Option Pending) (draws : Nat) :
    HostEffect e s { s with din := din, tblIdx := tblIdx, pend := pend, draws := draws }

theorem busy_eq_true {s : State} : busy s = true ↔ s.pend ≠ none := by
  simp [busy, Option.isSome_iff_ne_none]

/-- A write that needs an idle engine: dropped while a command is pending (10_state.md R54). -/
theorem hostEffect_of_gate {e : HostEvent} {s t : State} (h : s.pend = none → HostEffect e s t) :
    HostEffect e s (if busy s then overrun s else t) := by
  split
  · next hbusy => exact .dropped (busy_eq_true.mp hbusy)
  · next hidle => exact h (by simpa [busy_eq_true] using hidle)

/-- What a host write can do at an aligned offset of the window. -/
theorem hostEffect_of_busWrite {off : Nat} (v : Word) (s : State) (hoff : off < 256) (halign : off % 4 = 0) :
    HostEffect (.write (base + off) 4 0xF v) s (busWrite off v s) := by
  unfold busWrite
  cases hreg : regAt off with
  | ctrl =>
    obtain rfl := offset_of_regAt_ctrl hoff halign hreg
    rw [writeReg]
    split
    · next hsrst => exact .reset (.inr ⟨v, hsrst, rfl⟩)
    · exact .quiet _ _ s.rdata s.draws
  | status =>
    obtain rfl := offset_of_regAt_status hoff halign hreg
    exact .clear v rfl
  | cmd => exact hostEffect_of_gate fun hpend => .accepted hpend s.din s.tblIdx _ _
  | din k => exact hostEffect_of_gate fun hpend => .accepted hpend _ s.tblIdx s.pend s.draws
  | tblIdx => exact hostEffect_of_gate fun hpend => .accepted hpend s.din _ s.pend s.draws
  | _ => exact .quiet s.ieDone s.ieErr s.rdata s.draws

/-- What a host event can do, by kind. -/
theorem hostEffect_of_hostEvent {e : HostEvent} {s t : State} (h : hostEvent e s = .next t) : HostEffect e s t := by
  obtain ⟨-, rfl⟩ | ⟨he, rfl⟩ | ⟨off, -, -, -, rfl⟩ | ⟨off, v, hoff, halign, rfl, rfl⟩ := hostEvent_cases h
  · exact .quiet t.ieDone t.ieErr t.rdata t.draws
  · exact .reset (.inl he)
  · obtain ⟨v, -, hread⟩ | ⟨-, hread⟩ := busRead_eq off s <;> rw [hread] <;> exact .quiet s.ieDone s.ieErr _ _
  · exact hostEffect_of_busWrite v s hoff halign

/-- A reset event resets the block. -/
theorem hostEvent_of_resetEvent {e : HostEvent} (he : ResetEvent e) (s : State) :
    hostEvent e s = .next (resetBlock s) := by
  obtain rfl | ⟨v, hsrst, rfl⟩ := he
  · rfl
  · have hwrite : busWrite 0 v s = resetBlock s := if_pos hsrst
    exact hwrite ▸ hostEvent_write v s (off := 0) (by decide) (by decide)

/-! ### A tick and a step -/

section

variable {s t : State} {w : Word} {n : Nat}

theorem hostPhase_of_nil (h : s.inputs = []) : hostPhase s = .next s := by
  simp [hostPhase, h]

theorem hostPhase_of_cons {e : HostEvent} {rest : List HostEvent} (h : s.inputs = e :: rest) :
    hostPhase s = hostEvent e { s with inputs := rest } := by
  simp [hostPhase, h]

/-- An idle host takes nothing but its own event. -/
theorem hostPhase_of_idle (h : ∀ e ∈ s.inputs, e = .idle) : hostPhase s = .next { s with inputs := s.inputs.drop 1 } := by
  cases hi : s.inputs with
  | nil =>
    rw [hostPhase_of_nil hi, List.drop_nil, ← hi]
  | cons e rest =>
    obtain rfl : e = .idle := h e (by simp [hi])
    rw [hostPhase_of_cons hi]
    rfl

theorem step_of_none (hhost : hostPhase s = .next t) (hpend : t.pend = none) : step s = .next t := by
  simp [step, hhost, engineTick, hpend]

theorem step_of_waiting (hhost : hostPhase s = .next t) (hpend : t.pend = some ⟨w, n + 1⟩) :
    step s = .next { t with pend := some ⟨w, n⟩ } := by
  simp [step, hhost, engineTick, hpend]

theorem step_of_ready (hhost : hostPhase s = .next t) (hpend : t.pend = some ⟨w, 0⟩) : step s = commitWord w t := by
  simp [step, hhost, engineTick, hpend]

theorem commitWord_of_decode {i : Instr} (h : decode w = .ok i) : commitWord w s = exec i s := by
  simp [commitWord, h]

theorem decode_of_decodeTableWord {nbits w : Nat} {i : Instr} (h : decodeTableWord nbits w = some i) :
    decode (wordOfTable nbits w) = .ok i := by
  unfold decodeTableWord at h
  split at h
  · next j hj => rw [hj, Option.some.inj h]
  · cases h

end

/-! ### Runs of several steps -/

section

variable {M : Host.Core} {s t : M.State}

theorem run_succ_of_next (k : Nat) (h : M.step s = .next t) : M.run (k + 1) s = M.run k t := by
  simp [Host.Core.run, h]

theorem run_one (s : M.State) : M.run 1 s = M.step s := by
  cases h : M.step s <;> simp [Host.Core.run, h]

/-- A run goes on from where its first part ended. -/
theorem run_add {k : Nat} (m : Nat) (h : M.run k s = .next t) : M.run (k + m) s = M.run m t := by
  induction k generalizing s with
  | zero =>
    obtain rfl : s = t := by simpa [Host.Core.run] using h
    rw [Nat.zero_add]
  | succ k ih =>
    cases hs : M.step s with
    | next u =>
      rw [run_succ_of_next k hs] at h
      rw [Nat.add_right_comm, run_succ_of_next _ hs, ih h]
    | fault r => simp [Host.Core.run, hs] at h
    | refused r => simp [Host.Core.run, hs] at h

end

end Sys2Proof.Machine
end

section
/-! PROOF. The invariant of the state: reset meets it, and every host event, every command and so every step keeps it. Each
lemma names the clauses that its update touches; the others are those of the state before. -/

namespace Sys2Proof.Safety

open Sys2Proof.Machine

/-! ### Reset and the host's events -/

theorem inv_reset : Inv State.reset := by
  constructor <;> simp [State.reset, isGcmPhase]

/-- Any reset meets the invariant: the free table is no claim while TBLV = 0. -/
theorem inv_resetBlock (s : State) : Inv (resetBlock s) :=
  { inv_reset with table_of_subkey := nofun }

section

variable {s t : State}

theorem inv_clearStatus (v : Word) (h : Inv s) : Inv (clearStatus v s) :=
  { h with
    no_error_code := fun herr => by
      simp only [clearStatus_err, Bool.and_eq_false_iff, Bool.not_eq_false'] at herr
      rcases herr with herr | hclear
      · simp [h.no_error_code herr]
      · simp [hclear]
    error_code := fun herr => by
      simp only [clearStatus_err, Bool.and_eq_true, Bool.not_eq_true'] at herr
      rw [clearStatus_errcode, herr.2]
      exact h.error_code herr.1 }

theorem inv_hostEvent {e : HostEvent} (h : Inv s) (hevent : hostEvent e s = .next t) : Inv t := by
  cases hostEffect_of_hostEvent hevent with
  | reset _ => exact inv_resetBlock s
  | clear v _ => exact inv_clearStatus v h
  | quiet ieDone ieErr rdata draws => exact { h with }
  | dropped _ => exact { h with }
  | accepted _ din tblIdx pend draws => exact { h with }

theorem inv_hostPhase (h : Inv s) (hhost : hostPhase s = .next t) : Inv t := by
  obtain ⟨-, rfl⟩ | ⟨e, rest, -, hevent⟩ := hostPhase_cases hhost
  · exact h
  · exact inv_hostEvent (s := { s with inputs := rest }) { h with } hevent

/-! ### The two ends of a commit -/

theorem errBits_range (e : ErrCode) : 1 ≤ (errBits e).toNat ∧ (errBits e).toNat ≤ 9 := by
  cases e <;> decide

theorem inv_succeed (h : Inv s) : Inv (succeed s) :=
  { h with }

theorem inv_raiseError (stream : Bool) (e : ErrCode) (h : Inv s) : Inv (raiseError stream e s) := by
  have hcode : 1 ≤ (raiseError stream e s).errcode.toNat ∧ (raiseError stream e s).errcode.toNat ≤ 9 := by
    rw [raiseError_errcode]
    split
    · next herr => exact h.error_code herr
    · exact errBits_range e
  cases stream with
  | false => exact { h with no_error_code := nofun, error_code := fun _ => hcode }
  | true =>
    exact { h with
      no_error_code := nofun
      error_code := fun _ => hcode
      gcm_phase := nofun
      text_phase := nofun
      closed_phase := nofun
      cbc_whole := fun _ => rfl
      tag_stream := fun hcheck =>
        have ⟨hmode, hdir, _⟩ := h.tag_stream hcheck
        ⟨hmode, hdir, .inr rfl⟩ }

/-! ### What the invariant says of an open stream -/

/-- No tag has been checked while a stream is open. -/
theorem Inv.tagchk_of_open (h : Inv s) (hidle : s.phase ≠ .idle) (hdone : s.phase ≠ .gcmDone) : s.tagchk = false := by
  by_contra hcheck
  obtain ⟨-, -, hphase | hphase⟩ := h.tag_stream (by simpa using hcheck)
  · exact hdone hphase
  · exact hidle hphase

/-- An open stream of GCM is in a phase of GCM. -/
theorem Inv.gcm_of_open (h : Inv s) (hidle : s.phase ≠ .idle) (hmode : s.cfgMode = some .gcm) :
    isGcmPhase s.phase = true := by
  cases hphase : s.phase with
  | idle => exact absurd hphase hidle
  | text => exact absurd hmode (h.text_phase hphase).2
  | _ => rfl

/-- An open stream of another mode is in TEXT. -/
theorem Inv.text_of_open (h : Inv s) (hidle : s.phase ≠ .idle) (hmode : s.cfgMode ≠ some .gcm) : s.phase = .text := by
  have hgcm : isGcmPhase s.phase ≠ true := fun hg => hmode (h.gcm_phase hg).1
  cases hphase : s.phase with
  | idle => exact absurd hphase hidle
  | text => rfl
  | _ => simp [hphase, isGcmPhase] at hgcm

/-! ### START -/

theorem effectiveTlen_range {tlen : BitVec 8} (h : tlenLegal tlen = true) :
    (effectiveTlen tlen).toNat % 8 = 0 ∧ 8 ≤ (effectiveTlen tlen).toNat ∧ (effectiveTlen tlen).toNat ≤ 128 := by
  unfold effectiveTlen
  split
  · decide
  · next hne =>
    have hne' : tlen.toNat ≠ 0 := fun h0 => hne (BitVec.eq_of_toNat_eq h0)
    simpa [tlenLegal, hne', and_assoc] using h

theorem inv_startCbc (dir : Dir) (leg : Bool) (tlen : BitVec 8) (h : Inv s) :
    Inv (startCbc leg (latchConfig .cbc dir tlen s)) :=
  { h with
    gcm_phase := nofun
    text_phase := fun _ => ⟨nofun, nofun⟩
    chain_valid := ⟨fun _ => rfl, fun _ => rfl⟩
    tag_length := nofun
    no_tag_length := fun _ => rfl
    closed_phase := nofun
    cbc_whole := fun _ => rfl
    tag_ok := nofun
    tag_checked := nofun
    tag_stream := nofun
    tag_masked := nofun
    tagexp_masked := nofun }

theorem inv_startKeystream {m : Mode} (dir : Dir) (tlen : BitVec 8) (hcbc : m ≠ .cbc) (hgcm : m ≠ .gcm) (h : Inv s) :
    Inv (startKeystream (latchConfig m dir tlen s)) := by
  have hmode : (startKeystream (latchConfig m dir tlen s)).cfgMode ≠ some .gcm := fun hm => hgcm (Option.some.inj hm)
  exact { h with
    gcm_phase := nofun
    text_phase := fun _ => ⟨nofun, hmode⟩
    chain_valid := ⟨nofun, fun hm => absurd (Option.some.inj hm) hcbc⟩
    tag_length := fun hm => absurd hm hmode
    no_tag_length := fun _ => if_neg hgcm
    closed_phase := nofun
    cbc_whole := fun _ => rfl
    tag_ok := nofun
    tag_checked := nofun
    tag_stream := nofun
    tag_masked := fun hm => absurd hm hmode
    tagexp_masked := fun hm => absurd hm hmode }

/-- START in GCM: the tag length is legal, and on decryption NB says as many bytes as it does. -/
theorem inv_startGcm {dir : Dir} {nb : BitVec 5} {tlen : BitVec 8} (htlen : tlenLegal tlen = true)
    (hnb : dir = .dec → 8 * nb.toNat = (effectiveTlen tlen).toNat) (h : Inv s) :
    Inv (startGcm dir nb (latchConfig .gcm dir tlen s)) :=
  { h with
    table_of_subkey := fun _ => rfl
    no_subkey := nofun
    gcm_phase := fun _ => ⟨rfl, rfl⟩
    text_phase := nofun
    chain_valid := ⟨nofun, nofun⟩
    tag_length := fun _ => effectiveTlen_range htlen
    no_tag_length := fun hm => absurd rfl hm
    closed_phase := nofun
    cbc_whole := nofun
    tag_ok := nofun
    tag_checked := nofun
    tag_stream := nofun
    tag_masked := fun _ => mask_zero _
    tagexp_masked := fun _ => by
      change mask (if dir = .dec then maskNb s.din nb else 0) ((effectiveTlen tlen).toNat / 8)
        = if dir = .dec then maskNb s.din nb else 0
      split
      · next hdec =>
        rw [← hnb hdec, Nat.mul_div_cancel_left _ (by decide)]
        exact mask_mask _ _
      · exact mask_zero _
    whole_bytes := rfl }

/-- What START's checks say of the tag length in GCM. -/
theorem tag_length_of_startChecks {mode : BitVec 3} {dir : Dir} {leg : Bool} {nb : BitVec 5} {tlen : BitVec 8}
    (hmode : modeOf mode = some .gcm) (hchecks : firstFailure (startChecks mode dir leg nb tlen s) = none) :
    tlenLegal tlen = true ∧ (dir = .dec → 8 * nb.toNat = (effectiveTlen tlen).toNat) := by
  rw [firstFailure_eq_none] at hchecks
  have htlen := hchecks ⟨.illegalField, tlenLegal tlen⟩ (by simp [startChecks, hmode])
  have hnb := hchecks ⟨.tagLenMismatch, !(modeOf mode == some .gcm && dir == .dec)
    || 8 * nb.toNat == (effectiveTlen tlen).toNat⟩ (by simp [startChecks])
  exact ⟨htlen, fun hdec => by simpa [hmode, hdec] using hnb⟩

theorem inv_startEffect {mode : BitVec 3} {dir : Dir} {leg : Bool} {nb : BitVec 5} {tlen : BitVec 8} (h : Inv s)
    (hchecks : firstFailure (startChecks mode dir leg nb tlen s) = none) :
    Inv (startEffect mode dir leg nb tlen s) := by
  unfold startEffect
  split
  · exact h
  · exact inv_startCbc dir leg tlen h
  · exact inv_startKeystream dir tlen nofun nofun h
  · exact inv_startKeystream dir tlen nofun nofun h
  · exact inv_startKeystream dir tlen nofun nofun h
  · next hmode =>
    obtain ⟨htlen, hnb⟩ := tag_length_of_startChecks hmode hchecks
    exact inv_startGcm htlen hnb h

/-! ### BLOCK -/

variable {nb : BitVec 5}

/-- BLOCK in a mode other than GCM, where PHASE is TEXT: CBC takes whole blocks, and CHV is 1 there already. -/
theorem inv_blockEffect_text (h : Inv s) (htext : s.phase = .text) (hcbc : s.cfgMode = some .cbc → nb = 16) :
    Inv (blockEffect nb s) := by
  obtain ⟨-, hgcm⟩ := h.text_phase htext
  have hchv : (blockEffect nb s).chv = true ↔ s.cfgMode = some .cbc := by
    simp [blockEffect_chv_of_not_gcm nb hgcm, h.chain_valid]
  rw [blockEffect_frame_of_not_gcm nb hgcm]
  exact { h with
    chain_valid := hchv
    closed_phase := fun _ => by
      rw [htext]
      rfl
    cbc_whole := fun hmode => by
      rw [hcbc hmode]
      rfl }

/-- BLOCK in GCM, in either direction. -/
theorem inv_gcmBlock (hashed : Block) (h : Inv s) (hidle : s.phase ≠ .idle) (hdone : s.phase ≠ .gcmDone)
    (hmode : s.cfgMode = some .gcm) : Inv { gcmBlock nb hashed s with pcl := isPartial nb } :=
  { h with
    gcm_phase := fun _ => h.gcm_phase (h.gcm_of_open hidle hmode)
    text_phase := nofun
    closed_phase := fun _ => rfl
    cbc_whole := fun hcbc => absurd (hmode.symm.trans hcbc) nofun
    tag_stream := fun hcheck => absurd ((h.tagchk_of_open hidle hdone).symm.trans hcheck) nofun }

theorem open_of_blockChecks (hchecks : firstFailure (blockChecks nb s) = none) : s.phase ≠ .idle := by
  rw [firstFailure_eq_none] at hchecks
  simpa using hchecks ⟨.noStream, s.phase != .idle⟩ (by simp [blockChecks])

theorem not_done_of_blockChecks (hmode : s.cfgMode = some .gcm) (hchecks : firstFailure (blockChecks nb s) = none) :
    s.phase ≠ .gcmDone := by
  rw [firstFailure_eq_none] at hchecks
  simpa using hchecks ⟨.sequence, s.phase != .gcmDone⟩ (by simp [blockChecks, hmode])

theorem inv_blockEffect (h : Inv s) (hchecks : firstFailure (blockChecks nb s) = none) : Inv (blockEffect nb s) := by
  have hidle := open_of_blockChecks hchecks
  by_cases hmode : s.cfgMode = some .gcm
  · have hdone := not_done_of_blockChecks hmode hchecks
    unfold blockEffect blockBody
    cases hdir : s.cfgDir <;> rw [hmode] <;> exact inv_gcmBlock _ h hidle hdone hmode
  · exact inv_blockEffect_text h (h.text_of_open hidle hmode) (byteCount_of_blockChecks_cbc hchecks)

/-! ### GCM -/

theorem open_of_gcmIvChecks (hchecks : firstFailure (checksOf (.gcmIv nb) s) = none) :
    s.cfgMode = some .gcm ∧ s.phase = .gcmIv := by
  obtain ⟨-, -, hmode, hphase, -⟩ : (nbCheck nb).holds = true ∧ s.phase ≠ .idle ∧ s.cfgMode = some .gcm
      ∧ s.phase = .gcmIv ∧ s.pcl = false := by
    simpa [checksOf, gcmStreamChecks] using (firstFailure_eq_none _).mp hchecks
  exact ⟨hmode, hphase⟩

theorem open_of_gcmIvendChecks (hchecks : firstFailure (checksOf .gcmIvend s) = none) : s.phase = .gcmIv := by
  rw [firstFailure_eq_none] at hchecks
  simpa using hchecks ⟨.sequence, s.phase == .gcmIv⟩ (by simp [checksOf])

theorem open_of_gcmAadChecks (hchecks : firstFailure (checksOf (.gcmAad nb) s) = none) :
    s.cfgMode = some .gcm ∧ s.phase = .gcmAad := by
  obtain ⟨-, -, hmode, -, hphase, -⟩ : (nbCheck nb).holds = true ∧ s.phase ≠ .idle ∧ s.cfgMode = some .gcm
      ∧ s.phase ≠ .gcmIv ∧ s.phase = .gcmAad ∧ s.pcl = false := by
    simpa [checksOf, gcmStreamChecks] using (firstFailure_eq_none _).mp hchecks
  exact ⟨hmode, hphase⟩

theorem open_of_gcmFinishChecks (hchecks : firstFailure (checksOf .gcmFinish s) = none) :
    s.cfgMode = some .gcm ∧ s.phase ≠ .idle ∧ s.phase ≠ .gcmDone := by
  obtain ⟨hidle, hmode, -, hdone⟩ : s.phase ≠ .idle ∧ s.cfgMode = some .gcm ∧ s.phase ≠ .gcmIv
      ∧ s.phase ≠ .gcmDone := by
    simpa [checksOf, gcmStreamChecks] using (firstFailure_eq_none _).mp hchecks
  exact ⟨hmode, hidle, hdone⟩

theorem inv_gcmIvEffect (h : Inv s) (hphase : s.phase = .gcmIv) (hmode : s.cfgMode = some .gcm) :
    Inv (gcmIvEffect nb s) :=
  { h with
    closed_phase := fun _ => (congrArg canBeClosed hphase :)
    cbc_whole := fun hcbc => absurd (hmode.symm.trans hcbc) nofun }

theorem inv_gcmIvendEffect (h : Inv s) (hphase : s.phase = .gcmIv) : Inv (gcmIvendEffect s) :=
  { h with
    gcm_phase := fun _ => h.gcm_phase (congrArg isGcmPhase hphase)
    text_phase := nofun
    closed_phase := nofun
    cbc_whole := fun _ => rfl
    tag_stream := fun hcheck => absurd ((h.tagchk_of_open (by simp [hphase]) (by simp [hphase])).symm.trans hcheck) nofun }

theorem bitCount_whole (nb : BitVec 5) : (bitCount nb).toNat % 8 = 0 := by
  have hbits : (bitCount nb).toNat = 8 * (nb.toNat % 2 ^ 64) % 2 ^ 64 := by
    rw [bitCount, BitVec.toNat_mul, BitVec.toNat_setWidth]
    rfl
  omega

theorem inv_gcmAadEffect (h : Inv s) (hphase : s.phase = .gcmAad) (hmode : s.cfgMode = some .gcm) :
    Inv (gcmAadEffect nb s) :=
  { h with
    closed_phase := fun _ => (congrArg canBeClosed hphase :)
    cbc_whole := fun hcbc => absurd (hmode.symm.trans hcbc) nofun
    whole_bytes := by
      change (s.aadlen + bitCount nb).toNat % 8 = 0
      have haad := h.whole_bytes
      have hbits := bitCount_whole nb
      rw [BitVec.toNat_add]
      omega }

/-- GCM_FINISH: the tag is masked as it is formed, and compared on decryption only; on encryption none has been checked. -/
theorem inv_gcmFinishEffect (h : Inv s) (hidle : s.phase ≠ .idle) (hdone : s.phase ≠ .gcmDone)
    (hmode : s.cfgMode = some .gcm) : Inv (gcmFinishEffect s) := by
  have hcheck := h.tagchk_of_open hidle hdone
  have hok : s.tagok = false := by
    by_contra hok
    simp [h.tag_ok (by simpa using hok)] at hcheck
  have hdec (hchecked : (gcmFinishEffect s).tagchk = true) : s.cfgDir = .dec := by
    by_contra hdir
    simp [gcmFinishEffect, hdir, hcheck] at hchecked
  exact { h with
    gcm_phase := fun _ => h.gcm_phase (h.gcm_of_open hidle hmode)
    text_phase := nofun
    closed_phase := nofun
    cbc_whole := fun _ => rfl
    tag_ok := fun htag => by
      by_cases hdir : s.cfgDir = .dec
      · exact if_pos hdir
      · simp [gcmFinishEffect, hdir, hok] at htag
    tag_checked := fun hchecked => if_pos (hdec hchecked)
    tag_stream := fun hchecked => ⟨hmode, hdec hchecked, .inl rfl⟩
    tag_masked := fun _ => mask_mask _ _ }

/-! ### Commands and steps -/

/-- A command whose checks pass keeps the invariant. -/
theorem inv_effectOf {i : Instr} (h : Inv s) (hchecks : firstFailure (checksOf i s) = none) : Inv (effectOf i s) := by
  cases i with
  | start mode dir leg nb tlen => exact inv_startEffect h hchecks
  | block nb => exact inv_blockEffect h hchecks
  | gcmIv nb =>
    obtain ⟨hmode, hphase⟩ := open_of_gcmIvChecks hchecks
    exact inv_gcmIvEffect h hphase hmode
  | gcmIvend => exact inv_gcmIvendEffect h (open_of_gcmIvendChecks hchecks)
  | gcmAad nb =>
    obtain ⟨hmode, hphase⟩ := open_of_gcmAadChecks hchecks
    exact inv_gcmAadEffect h hphase hmode
  | gcmFinish =>
    obtain ⟨hmode, hidle, hdone⟩ := open_of_gcmFinishChecks hchecks
    exact inv_gcmFinishEffect h hidle hdone hmode
  | ghLoadh =>
    exact { h with
      table_of_subkey := fun _ => rfl
      no_subkey := nofun
      gcm_phase := fun hphase => ⟨(h.gcm_phase hphase).1, rfl⟩ }
  | nop => exact h
  | ghClear | ghSets | ghStep nb | ghMulref | ghMultbl | ghMulx | utInc32 => exact { h with }

theorem inv_commitWord {w : Word} (h : Inv s) (hcommit : commitWord w s = .next t) : Inv t := by
  obtain ⟨stream, e, rfl⟩ | ⟨i, -, hchecks, rfl⟩ := commitWord_cases hcommit
  · exact inv_raiseError stream e h
  · exact inv_succeed (inv_effectOf h hchecks)

theorem inv_engineTick (h : Inv s) (htick : engineTick s = .next t) : Inv t := by
  obtain ⟨-, rfl⟩ | ⟨w, n, -, rfl⟩ | ⟨w, -, hcommit⟩ := engineTick_cases htick
  · exact h
  · exact { h with }
  · exact inv_commitWord h hcommit

end

/-- Settles O58: the host's event keeps the invariant, and then the tick does. -/
theorem everyStepKeepsInvariant : Obligations.EveryStepKeepsInvariant := by
  intro s t h hstep
  obtain ⟨u, hhost, htick⟩ := step_cases hstep
  exact inv_engineTick (inv_hostPhase h hhost) htick

end Sys2Proof.Safety
end

section
/-! PROOF. The engine and the host's events: when a pending command commits, what a host event leaves it to read, the flags
that a commit sets and a host event takes back, and reset. -/

namespace Sys2Proof.Machine

/-! ### The pending command -/

/-- Settles O7: a step is the host's part, then the commit of the word whose latency has run out. -/
theorem stepRunsDecodedCommand : Obligations.StepRunsDecodedCommand := by
  refine ⟨fun s t w i hhost hpend hdecode => ?_, fun s w i hinputs hpend hdecode => ?_, fun s nbits w i htable => ?_⟩
  · rw [step_of_ready hhost hpend, commitWord_of_decode hdecode]
  · rw [step_of_ready (hostPhase_of_nil hinputs) hpend, commitWord_of_decode hdecode]
  · have hhost : hostPhase (s.withFetchWord nbits w) = .next { s with pend := some ⟨wordOfTable nbits w, 0⟩ } := rfl
    rw [step_of_ready hhost rfl, commitWord_of_decode (decode_of_decodeTableWord htable)]

/-- While the host is idle, k steps of a pending command whose wait they do not exceed take k from its wait. -/
theorem run_of_waiting {k n : Nat} {w : Word} {s : State} (hpend : s.pend = some ⟨w, n⟩)
    (hidle : ∀ e ∈ s.inputs, e = .idle) (hk : k ≤ n) :
    Host.Core.run core k s = .next { s with pend := some ⟨w, n - k⟩, inputs := s.inputs.drop k } := by
  induction k generalizing s n with
  | zero =>
    rw [Nat.sub_zero, List.drop_zero, ← hpend]
    rfl
  | succ k ih =>
    obtain ⟨m, rfl⟩ : ∃ m, n = m + 1 := ⟨n - 1, by omega⟩
    have hstep : step s = .next { s with pend := some ⟨w, m⟩, inputs := s.inputs.drop 1 } :=
      step_of_waiting (hostPhase_of_idle hidle) hpend
    have hrest : Host.Core.run core k { s with pend := some ⟨w, m⟩, inputs := s.inputs.drop 1 } = _ :=
      ih rfl (fun e he => hidle e (List.mem_of_mem_drop he)) (by omega)
    rw [run_succ_of_next (M := core) k hstep, hrest, List.drop_drop, Nat.add_sub_add_right, Nat.add_comm 1 k]

/-- The step after the last wait commits the word. -/
theorem run_commits {n : Nat} {w : Word} {s : State} (hpend : s.pend = some ⟨w, n⟩)
    (hidle : ∀ e ∈ s.inputs, e = .idle) :
    Host.Core.run core (n + 1) s = commitWord w { s with inputs := s.inputs.drop (n + 1) } := by
  have hhost : hostPhase { s with pend := some ⟨w, 0⟩, inputs := s.inputs.drop n }
      = .next { s with pend := some ⟨w, 0⟩, inputs := (s.inputs.drop n).drop 1 } :=
    hostPhase_of_idle fun e he => hidle e (List.mem_of_mem_drop he)
  have hwait := run_of_waiting hpend hidle (Nat.le_refl n)
  rw [Nat.sub_self] at hwait
  have hlast : Host.Core.run core (n + 1) s = step { s with pend := some ⟨w, 0⟩, inputs := s.inputs.drop n } :=
    (run_add (M := core) 1 hwait).trans (run_one (M := core) _)
  rw [hlast, step_of_ready hhost rfl, List.drop_drop]
  exact commitWord_withPend w (some ⟨w, 0⟩) { s with inputs := s.inputs.drop (n + 1) }

/-- Settles O8: by induction on the steps; the commit itself does not read PEND. -/
theorem pendingCommandCommitsWhenItsLatencyEnds : Obligations.PendingCommandCommitsWhenItsLatencyEnds :=
  ⟨fun _ _ _ hpend hidle => ⟨fun _ hk => run_of_waiting hpend hidle hk, run_commits hpend hidle⟩,
    fun _ _ _ _ hhost hpend => step_of_waiting hhost hpend, fun _ _ hhost hpend => step_of_none hhost hpend⟩

/-- Settles O9: by the kinds of host event; a write that needs an idle engine is dropped. -/
theorem operandsHoldWhileCommandPends : Obligations.OperandsHoldWhileCommandPends := by
  intro e s t hpend hevent
  cases hostEffect_of_hostEvent hevent with
  | reset _ => exact .inl rfl
  | clear v _ => exact .inr rfl
  | quiet ieDone ieErr rdata draws => exact .inr rfl
  | dropped _ => exact .inr rfl
  | accepted hnone _ _ _ _ => exact absurd hnone hpend

/-! ### Reset -/

/-- The words that the control registers read as after a reset, whatever it leaves outside the registers and in the free
table (10_state.md R67). -/
theorem words_of_reset (table : Table) (inputs : List HostEvent) (rdata : Word) (draws : Nat)
    (reqs : List CipherRequest) (t : State)
    (ht : t = { State.reset with
      table := table, inputs := inputs, rdata := rdata, draws := draws, cipherReqs := reqs }) :
    ctrlWord t = 0 ∧ statusWord t = 0 ∧ cfgWord t = 0 := by
  subst ht
  refine ⟨?_, ?_, ?_⟩
  · simp [ctrlWord, State.reset]
  · simp [statusWord, busy, phaseBits, State.reset]
  · simp [cfgWord, modeBits, Dir.bit, State.reset]

/-- Settles O10: the reset empties PEND, so the tick of the same step has nothing to commit. -/
theorem resetTakesEffectAtOnce : Obligations.ResetTakesEffectAtOnce := by
  intro s e rest he hinputs
  have hhost : hostPhase s = .next (resetBlock { s with inputs := rest }) := by
    rw [hostPhase_of_cons hinputs, hostEvent_of_resetEvent he]
  obtain ⟨hctrl, hstatus, hcfg⟩ := words_of_reset _ _ _ _ _ (resetBlock { s with inputs := rest }) rfl
  exact ⟨_, step_of_none hhost rfl, rfl, hctrl, hstatus, hcfg, rfl⟩

/-- Settles O57: the invariant and the words of the control registers by the lemmas on reset, the rest by definition. -/
theorem resetMeetsInvariant : Obligations.ResetMeetsInvariant := by
  obtain ⟨hctrl, hstatus, hcfg⟩ := words_of_reset _ _ _ _ _ State.reset rfl
  exact ⟨Safety.inv_reset, hctrl, hstatus, hcfg, rfl, rfl, rfl, rfl⟩

/-! ### The flags -/

/-- What a host event can do to DONE and ERR: reset them, clear them by a write to STATUS, or leave both. -/
theorem flags_of_hostEvent {e : HostEvent} {s t : State} (hevent : hostEvent e s = .next t) :
    ResetEvent e ∨ (∃ v, e = .write (base + 4) 4 0xF v ∧ t = clearStatus v s) ∨ (t.done = s.done ∧ t.err = s.err) := by
  cases hostEffect_of_hostEvent hevent with
  | reset he => exact .inl he
  | clear v he => exact .inr (.inl ⟨v, he, rfl⟩)
  | quiet _ _ _ _ => exact .inr (.inr ⟨rfl, rfl⟩)
  | dropped _ => exact .inr (.inr ⟨rfl, rfl⟩)
  | accepted _ _ _ _ _ => exact .inr (.inr ⟨rfl, rfl⟩)

/-- A host's write to STATUS in the step of a commit comes before it. -/
theorem step_of_statusWrite {s : State} {v w : Word} {rest : List HostEvent}
    (hinputs : s.inputs = .write (base + 4) 4 0xF v :: rest) (hpend : s.pend = some ⟨w, 0⟩) :
    step s = commitWord w (busWrite 0x004 v { s with inputs := rest }) := by
  have hhost : hostPhase s = .next (busWrite 0x004 v { s with inputs := rest }) := by
    rw [hostPhase_of_cons hinputs, hostEvent_write _ _ (by decide) (by decide)]
  exact step_of_ready hhost hpend

/-- A write that a pending command lets drop leaves DONE. -/
theorem dropped_write_done {v : Word} {s : State} (hpend : s.pend ≠ none) {off : Nat}
    (hoff : off ∈ [0x008, 0x020, 0x024, 0x028, 0x02C, 0x0C0]) : (busWrite off v s).done = s.done := by
  have hdrop : busWrite off v s = overrun s := by
    simp only [List.mem_cons, List.not_mem_nil, or_false] at hoff
    rcases hoff with rfl | rfl | rfl | rfl | rfl | rfl <;> exact if_pos (busy_eq_true.mpr hpend)
  rw [hdrop, overrun_done]

/-- Settles O17: the clearing write comes before the commit of its step. -/
theorem doneMarksEveryCommit : Obligations.DoneMarksEveryCommit := by
  refine ⟨fun w s => ?_, fun v s hpend off hoff => dropped_write_done hpend hoff, fun e s t hevent hs ht => ?_,
    fun s t v w rest hinputs hpend hstep => ?_⟩
  · obtain ⟨t, ht⟩ := commitWord_next w s
    exact ⟨t, ht, commitWord_done ht⟩
  · obtain (rfl | hsrst) | ⟨v, he, rfl⟩ | ⟨hdone, -⟩ := flags_of_hostEvent hevent
    · exact .inl rfl
    · exact .inr (.inl hsrst)
    · exact .inr (.inr ⟨v, by simpa [hs] using ht, he⟩)
    · simp [hdone, hs] at ht
  · exact commitWord_done (step_of_statusWrite hinputs hpend ▸ hstep)

/-- Settles O20: a commit keeps an error that stands, and of the host events only those named take ERR back. -/
theorem firstErrorIsKept : Obligations.FirstErrorIsKept := by
  refine ⟨fun w s t hcommit hs => ?_, fun w s t hcommit hs => ?_, fun e s t hevent hs ht => ?_⟩
  · obtain ⟨herr, e, hcode⟩ | ⟨herr, hcode⟩ := commitWord_err_cases hcommit
    · exact ⟨herr, by rw [hcode, if_pos hs]⟩
    · exact ⟨herr.trans hs, hcode⟩
  · obtain ⟨herr, e, hcode⟩ | ⟨herr, hcode⟩ := commitWord_err_cases hcommit
    · exact .inr ⟨herr, e, by simp [hcode, hs]⟩
    · exact .inl ⟨herr.trans hs, hcode⟩
  · obtain (rfl | hsrst) | ⟨v, he, rfl⟩ | ⟨-, herr⟩ := flags_of_hostEvent hevent
    · exact .inl rfl
    · exact .inr (.inl hsrst)
    · exact .inr (.inr ⟨v, by simpa [hs] using ht, he⟩)
    · simp [herr, hs] at ht

theorem and_not_eq_ite (b c : Bool) : (b && !c) = if c then false else b := by
  cases c <;> simp

/-- Settles O16: the write comes first, and the commit after it sets DONE and either raises ERR or leaves it. -/
theorem statusWriteClearsAndCommitWins : Obligations.StatusWriteClearsAndCommitWins := by
  refine ⟨fun v s => ?_, fun s v w rest hinputs hpend => ?_⟩
  · change clearStatus v s = _
    simp only [clearStatus, and_not_eq_ite]
  · have hstep := step_of_statusWrite hinputs hpend
    obtain ⟨t, hcommit⟩ := commitWord_next w (busWrite 0x004 v { s with inputs := rest })
    refine ⟨hstep, t, hstep.trans hcommit, commitWord_done hcommit, ?_⟩
    obtain ⟨herr, -⟩ | ⟨herr, -⟩ := commitWord_err_cases hcommit
    · exact .inl herr
    · exact .inr herr

end Sys2Proof.Machine
end

section
/-! PROOF. Which commands write which register: one lemma per register, or per group of registers with the same writers. Each
names its writers, and the frames of START and BLOCK. -/

namespace Sys2Proof.Machine

section

variable {i : Instr} {s t : State}

/-- What the host alone writes, and what the model keeps of the host's side. -/
theorem exec_keeps_host (h : exec i s = .next t) :
    t.din = s.din ∧ t.tblIdx = s.tblIdx ∧ t.ieDone = s.ieDone ∧ t.ieErr = s.ieErr ∧ t.ovf = s.ovf
    ∧ t.inputs = s.inputs ∧ t.rdata = s.rdata ∧ t.draws = s.draws := by
  obtain ⟨e, -, rfl⟩ | ⟨-, rfl⟩ := exec_cases h
  · exact ⟨rfl, rfl, rfl, rfl, rfl, rfl, rfl, rfl⟩
  · rw [effectOf_frame]
    exact ⟨rfl, rfl, rfl, rfl, rfl, rfl, rfl, rfl⟩

theorem exec_dout (h : exec i s = .next t) (hi : i.opcode ∉ [.block, .ghMulref, .ghMultbl, .ghMulx, .utInc32]) :
    t.dout = s.dout := by
  obtain ⟨e, -, rfl⟩ | ⟨-, rfl⟩ := exec_cases h
  · rfl
  · cases i with
    | block | ghMulref | ghMultbl | ghMulx | utInc32 => simp [Instr.opcode] at hi
    | start mode dir leg nb tlen => exact (congrArg State.dout (startEffect_frame mode dir leg nb tlen s) :)
    | _ => rfl

theorem exec_chain (h : exec i s = .next t) (hi : i.opcode ∉ [.start, .block, .gcmIvend]) : t.chain = s.chain := by
  obtain ⟨e, -, rfl⟩ | ⟨-, rfl⟩ := exec_cases h
  · rfl
  · cases i with
    | start | block | gcmIvend => simp [Instr.opcode] at hi
    | _ => rfl

/-- H, T and TBLV are loaded together. -/
theorem exec_subkey (h : exec i s = .next t) (hi : i.opcode ∉ [.start, .ghLoadh]) :
    t.subkeyH = s.subkeyH ∧ t.table = s.table ∧ t.tblv = s.tblv := by
  obtain ⟨e, -, rfl⟩ | ⟨-, rfl⟩ := exec_cases h
  · exact ⟨rfl, rfl, rfl⟩
  · cases i with
    | start | ghLoadh => simp [Instr.opcode] at hi
    | block nb =>
      rw [effectOf, blockEffect_frame]
      exact ⟨rfl, rfl, rfl⟩
    | _ => exact ⟨rfl, rfl, rfl⟩

theorem exec_accS (h : exec i s = .next t)
    (hi : i.opcode ∉ [.start, .gcmIv, .gcmIvend, .gcmAad, .block, .gcmFinish, .ghClear, .ghSets, .ghStep]) :
    t.accS = s.accS := by
  obtain ⟨e, -, rfl⟩ | ⟨-, rfl⟩ := exec_cases h
  · rfl
  · cases i with
    | start | gcmIv | gcmIvend | gcmAad | block | gcmFinish | ghClear | ghSets | ghStep => simp [Instr.opcode] at hi
    | _ => rfl

theorem exec_j0 (h : exec i s = .next t) (hi : i.opcode ∉ [.start, .gcmIv, .gcmIvend]) : t.j0 = s.j0 := by
  obtain ⟨e, -, rfl⟩ | ⟨-, rfl⟩ := exec_cases h
  · rfl
  · cases i with
    | start | gcmIv | gcmIvend => simp [Instr.opcode] at hi
    | block nb => exact (congrArg State.j0 (blockEffect_frame nb s) :)
    | _ => rfl

theorem exec_tag (h : exec i s = .next t) (hi : i.opcode ∉ [.start, .gcmFinish]) :
    t.tag = s.tag ∧ t.tagchk = s.tagchk ∧ t.tagok = s.tagok := by
  obtain ⟨e, -, rfl⟩ | ⟨-, rfl⟩ := exec_cases h
  · exact ⟨rfl, rfl, rfl⟩
  · cases i with
    | start | gcmFinish => simp [Instr.opcode] at hi
    | block nb =>
      rw [effectOf, blockEffect_frame]
      exact ⟨rfl, rfl, rfl⟩
    | _ => exact ⟨rfl, rfl, rfl⟩

/-- What START latches for the stream. -/
theorem exec_config (h : exec i s = .next t) (hi : i.opcode ≠ .start) :
    t.tagexp = s.tagexp ∧ t.cfgMode = s.cfgMode ∧ t.cfgDir = s.cfgDir ∧ t.cfgTlen = s.cfgTlen := by
  obtain ⟨e, -, rfl⟩ | ⟨-, rfl⟩ := exec_cases h
  · exact ⟨rfl, rfl, rfl, rfl⟩
  · cases i with
    | start => exact absurd rfl hi
    | block nb =>
      rw [effectOf, blockEffect_frame]
      exact ⟨rfl, rfl, rfl, rfl⟩
    | _ => exact ⟨rfl, rfl, rfl, rfl⟩

theorem exec_aadlen (h : exec i s = .next t) (hi : i.opcode ∉ [.start, .gcmAad]) : t.aadlen = s.aadlen := by
  obtain ⟨e, -, rfl⟩ | ⟨-, rfl⟩ := exec_cases h
  · rfl
  · cases i with
    | start | gcmAad => simp [Instr.opcode] at hi
    | block nb => exact (congrArg State.aadlen (blockEffect_frame nb s) :)
    | _ => rfl

theorem exec_clen_chv (h : exec i s = .next t) (hi : i.opcode ∉ [.start, .block]) :
    t.clen = s.clen ∧ t.chv = s.chv := by
  obtain ⟨e, -, rfl⟩ | ⟨-, rfl⟩ := exec_cases h
  · exact ⟨rfl, rfl⟩
  · cases i with
    | start | block => simp [Instr.opcode] at hi
    | _ => exact ⟨rfl, rfl⟩

theorem exec_ivlen (h : exec i s = .next t) (hi : i.opcode ∉ [.start, .gcmIv]) : t.ivlen = s.ivlen := by
  obtain ⟨e, -, rfl⟩ | ⟨-, rfl⟩ := exec_cases h
  · rfl
  · cases i with
    | start | gcmIv => simp [Instr.opcode] at hi
    | block nb => exact (congrArg State.ivlen (blockEffect_frame nb s) :)
    | _ => rfl

/-- A command outside the stream moves neither PHASE nor PCL, whether it fails or not. -/
theorem exec_phase (h : exec i s = .next t) (hi : i.opcode.isStream = false) : t.phase = s.phase ∧ t.pcl = s.pcl := by
  obtain ⟨e, -, rfl⟩ | ⟨-, rfl⟩ := exec_cases h
  · simp [hi]
  · cases i with
    | start | block | gcmIv | gcmIvend | gcmAad | gcmFinish => simp [Instr.opcode, Opcode.isStream] at hi
    | _ => exact ⟨rfl, rfl⟩

/-- START and BLOCK in a mode other than GCM leave the registers of GCM (10_state.md R68). -/
theorem exec_gcm_registers_of_not_gcm (h : exec i s = .next t)
    (hi : (∃ mode dir leg nb tlen, i = .start mode dir leg nb tlen ∧ mode ≠ 5)
      ∨ i.opcode = .block ∧ s.cfgMode ≠ some .gcm) :
    t.subkeyH = s.subkeyH ∧ t.table = s.table ∧ t.tblv = s.tblv ∧ t.accS = s.accS ∧ t.j0 = s.j0 ∧ t.tag = s.tag
    ∧ t.tagexp = s.tagexp ∧ t.aadlen = s.aadlen ∧ t.clen = s.clen ∧ t.ivlen = s.ivlen := by
  obtain ⟨e, -, rfl⟩ | ⟨-, rfl⟩ := exec_cases h
  · exact ⟨rfl, rfl, rfl, rfl, rfl, rfl, rfl, rfl, rfl, rfl⟩
  obtain ⟨mode, dir, leg, nb, tlen, rfl, hmode⟩ | ⟨hop, hmode⟩ := hi
  · rw [effectOf, startEffect_frame_of_not_gcm _ _ _ _ _ _ hmode]
    exact ⟨rfl, rfl, rfl, rfl, rfl, rfl, rfl, rfl, rfl, rfl⟩
  · cases i with
    | block nb =>
      rw [effectOf, blockEffect_frame_of_not_gcm nb hmode]
      exact ⟨rfl, rfl, rfl, rfl, rfl, rfl, rfl, rfl, rfl, rfl⟩
    | _ => simp [Instr.opcode] at hop

end

/-- Settles O28: the lemmas above, one for each clause after the host's own registers. -/
theorem registersChangeOnlyUnderTheirCommands : Obligations.RegistersChangeOnlyUnderTheirCommands := by
  intro i s t h
  obtain ⟨hdin, htblIdx, hieDone, hieErr, hovf, hinputs, hrdata, hdraws⟩ := exec_keeps_host h
  exact ⟨hdin, htblIdx, hieDone, hieErr, hovf, hinputs, hrdata, hdraws, exec_dout h, exec_chain h, exec_subkey h,
    exec_accS h, exec_j0 h, exec_tag h, exec_config h, exec_aadlen h, exec_clen_chv h, exec_ivlen h, exec_phase h,
    exec_gcm_registers_of_not_gcm h⟩

end Sys2Proof.Machine
end

section
/-! PROOF. The window: the reads whose value is free, and the layout of STATUS, CTRL and CFG, field by field from the least
significant. -/

namespace Sys2Proof.Machine

/-! ### Unspecified reads -/

/-- A result register has no specified value while a command is pending (20_memory.md R90). -/
theorem readReg_of_pending {s : State} {r : Reg} (hpend : s.pend ≠ none) (hr : r.isResult = true) :
    readReg s r = none := by
  have hbusy := busy_eq_true.mpr hpend
  cases r with
  | block r k | lengthHi r | lengthLo r => exact if_pos hbusy
  | tblData k => simp [readReg, hbusy]
  | ctrl | status | cmd | cfg | id | din | tblIdx | reserved => cases hr

/-- TBL_DATA has none before a table is built (10_state.md R62). -/
theorem readReg_tblData_of_no_table {s : State} (htblv : s.tblv = false) (k : Fin 4) : readReg s (.tblData k) = none := by
  simp [readReg, htblv]

theorem busRead_of_none {off : Nat} {s : State} (h : readReg s (regAt off) = none) :
    busRead off s = { s with rdata := Config.freeRead s.draws, draws := s.draws + 1 } := by
  simp [busRead, h]

/-- Settles O12: each offset named holds a register whose read has no specified value, so the read draws a free one. -/
theorem unspecifiedReadsAreFreeValues : Obligations.UnspecifiedReadsAreFreeValues := by
  intro off s _ h
  obtain ⟨hpend, hoff⟩ | ⟨htblv, hoff⟩ := h
  · exact busRead_of_none (readReg_of_pending hpend (regAt_isResult hoff))
  · exact busRead_of_none (regAt_tblData hoff ▸ readReg_tblData_of_no_table htblv _)

/-! ### The layout of the words -/

theorem getLsbD_append_low_bit {n : Nat} (x : BitVec n) (b : Bool) : (x ++ BitVec.ofBool b).getLsbD 0 = b := by
  rw [BitVec.getLsbD_append]
  cases b <;> rfl

section

variable (s : State)

/-- STATUS from ERRCODE up: what its low byte leaves. -/
def statusHigh : BitVec 24 :=
  0#12 ++ BitVec.ofBool s.tagok ++ BitVec.ofBool s.tagchk ++ BitVec.ofBool s.chv ++ BitVec.ofBool s.tblv ++ s.errcode

/-- The widths of the fields of the low byte, as the two lemmas below take them off. -/
theorem eight_add_eq_fields (k : Nat) : 8 + k = 1 + (1 + (1 + (1 + (3 + (1 + k))))) := by
  omega

theorem getLsbD_statusWord_high (k : Nat) : (statusWord s).getLsbD (8 + k) = (statusHigh s).getLsbD k := by
  rw [eight_add_eq_fields]
  exact (getLsbD_append_high _ (BitVec.ofBool (busy s)) _).trans <|
    (getLsbD_append_high _ (BitVec.ofBool s.done) _).trans <|
      (getLsbD_append_high _ (BitVec.ofBool s.err) _).trans <|
        (getLsbD_append_high _ (BitVec.ofBool s.ovf) _).trans <|
          (getLsbD_append_high _ (phaseBits s.phase) _).trans <|
            getLsbD_append_high (statusHigh s) (BitVec.ofBool s.pcl) k

theorem extract_statusWord_high (k len : Nat) :
    (statusWord s).extractLsb' (8 + k) len = (statusHigh s).extractLsb' k len := by
  rw [eight_add_eq_fields]
  exact (extract_append_high _ (BitVec.ofBool (busy s)) _ len).trans <|
    (extract_append_high _ (BitVec.ofBool s.done) _ len).trans <|
      (extract_append_high _ (BitVec.ofBool s.err) _ len).trans <|
        (extract_append_high _ (BitVec.ofBool s.ovf) _ len).trans <|
          (extract_append_high _ (phaseBits s.phase) _ len).trans <|
            extract_append_high (statusHigh s) (BitVec.ofBool s.pcl) k len

theorem statusWord_busy : (statusWord s).getLsbD 0 = s.pend.isSome :=
  getLsbD_append_low_bit _ (busy s)

theorem statusWord_done : (statusWord s).getLsbD 1 = s.done :=
  getLsbD_append_bit _ s.done (BitVec.ofBool (busy s))

theorem statusWord_err : (statusWord s).getLsbD 2 = s.err :=
  (getLsbD_append_high _ (BitVec.ofBool (busy s)) 1).trans (getLsbD_append_bit _ s.err (BitVec.ofBool s.done))

theorem statusWord_ovf : (statusWord s).getLsbD 3 = s.ovf :=
  (getLsbD_append_high _ (BitVec.ofBool (busy s)) 2).trans <|
    (getLsbD_append_high _ (BitVec.ofBool s.done) 1).trans (getLsbD_append_bit _ s.ovf (BitVec.ofBool s.err))

theorem statusWord_phase : (statusWord s).extractLsb' 4 3 = phaseBits s.phase :=
  (extract_append_high _ (BitVec.ofBool (busy s)) 3 3).trans <|
    (extract_append_high _ (BitVec.ofBool s.done) 2 3).trans <|
      (extract_append_high _ (BitVec.ofBool s.err) 1 3).trans <|
        (extract_append_high _ (BitVec.ofBool s.ovf) 0 3).trans <| extract_append_low _ (phaseBits s.phase)

theorem statusWord_pcl : (statusWord s).getLsbD 7 = s.pcl :=
  (getLsbD_append_high _ (BitVec.ofBool (busy s)) 6).trans <|
    (getLsbD_append_high _ (BitVec.ofBool s.done) 5).trans <|
      (getLsbD_append_high _ (BitVec.ofBool s.err) 4).trans <|
        (getLsbD_append_high _ (BitVec.ofBool s.ovf) 3).trans <| getLsbD_append_bit _ s.pcl (phaseBits s.phase)

theorem statusWord_errcode : (statusWord s).extractLsb' 8 8 = s.errcode :=
  (extract_statusWord_high s 0 8).trans (extract_append_low _ s.errcode)

theorem statusWord_tblv : (statusWord s).getLsbD 16 = s.tblv :=
  (getLsbD_statusWord_high s 8).trans (getLsbD_append_bit _ s.tblv s.errcode)

theorem statusWord_chv : (statusWord s).getLsbD 17 = s.chv :=
  (getLsbD_statusWord_high s 9).trans <|
    (getLsbD_append_high _ s.errcode 1).trans (getLsbD_append_bit _ s.chv (BitVec.ofBool s.tblv))

theorem statusWord_tagchk : (statusWord s).getLsbD 18 = s.tagchk :=
  (getLsbD_statusWord_high s 10).trans <| (getLsbD_append_high _ s.errcode 2).trans <|
    (getLsbD_append_high _ (BitVec.ofBool s.tblv) 1).trans (getLsbD_append_bit _ s.tagchk (BitVec.ofBool s.chv))

theorem statusWord_tagok : (statusWord s).getLsbD 19 = s.tagok :=
  (getLsbD_statusWord_high s 11).trans <| (getLsbD_append_high _ s.errcode 3).trans <|
    (getLsbD_append_high _ (BitVec.ofBool s.tblv) 2).trans <|
      (getLsbD_append_high _ (BitVec.ofBool s.chv) 1).trans (getLsbD_append_bit _ s.tagok (BitVec.ofBool s.tagchk))

theorem statusWord_reserved : (statusWord s).extractLsb' 20 12 = 0 :=
  (extract_statusWord_high s 12 12).trans <| (extract_append_high _ s.errcode 4 12).trans <|
    (extract_append_high _ (BitVec.ofBool s.tblv) 3 12).trans <|
      (extract_append_high _ (BitVec.ofBool s.chv) 2 12).trans <|
        (extract_append_high _ (BitVec.ofBool s.tagchk) 1 12).trans <|
          (extract_append_high 0#12 (BitVec.ofBool s.tagok) 0 12).trans (by decide)

theorem ctrlWord_ieDone : (ctrlWord s).getLsbD 0 = s.ieDone :=
  getLsbD_append_low_bit _ s.ieDone

theorem ctrlWord_ieErr : (ctrlWord s).getLsbD 1 = s.ieErr :=
  getLsbD_append_bit _ s.ieErr (BitVec.ofBool s.ieDone)

theorem ctrlWord_reserved : (ctrlWord s).extractLsb' 2 30 = 0 :=
  (extract_append_high _ (BitVec.ofBool s.ieDone) 1 30).trans <|
    (extract_append_high 0#30 (BitVec.ofBool s.ieErr) 0 30).trans (by decide)

theorem cfgWord_mode : (cfgWord s).extractLsb' 0 3 = modeBits s.cfgMode :=
  extract_append_low _ (modeBits s.cfgMode)

theorem cfgWord_dir : (cfgWord s).getLsbD 3 = s.cfgDir.bit :=
  getLsbD_append_bit _ s.cfgDir.bit (modeBits s.cfgMode)

theorem cfgWord_reservedLow : (cfgWord s).extractLsb' 4 4 = 0 :=
  (extract_append_high _ (modeBits s.cfgMode) 1 4).trans <|
    (extract_append_high _ (BitVec.ofBool s.cfgDir.bit) 0 4).trans (extract_append_low _ 0#4)

theorem cfgWord_tlen : (cfgWord s).extractLsb' 8 8 = s.cfgTlen :=
  (extract_append_high _ (modeBits s.cfgMode) 5 8).trans <|
    (extract_append_high _ (BitVec.ofBool s.cfgDir.bit) 4 8).trans <|
      (extract_append_high _ 0#4 0 8).trans (extract_append_low _ s.cfgTlen)

theorem cfgWord_reservedHigh : (cfgWord s).extractLsb' 16 16 = 0 :=
  (extract_append_high _ (modeBits s.cfgMode) 13 16).trans <|
    (extract_append_high _ (BitVec.ofBool s.cfgDir.bit) 12 16).trans <| (extract_append_high _ 0#4 8 16).trans <|
      (extract_append_high 0#16 s.cfgTlen 0 16).trans (by decide)

end

/-- Where no error stood, an error leaves its code in STATUS (60_exceptions.md R311, R312). -/
theorem statusWord_errorState_errcode {s : State} (hs : s.err = false) (stream : Bool) (e : ErrCode) :
    (statusWord (Safety.errorState stream e s)).extractLsb' 8 8 = errBits e := by
  rw [statusWord_errcode, ← raiseError_eq_errorState, raiseError_errcode, hs]
  rfl

/-- Settles O15: the layout field by field; ERRCODE is 0 while ERR = 0 by the invariant. -/
theorem statusControlAndConfigurationWords : Obligations.StatusControlAndConfigurationWords := by
  intro s
  refine ⟨?status, ?noError, ?ctrl, ?cfg, ?phaseCodes, ?modeCodes, ?dirCodes, fun stream hs => ?errorCodes⟩
  case status =>
    exact ⟨statusWord_busy s, statusWord_done s, statusWord_err s, statusWord_ovf s, statusWord_phase s, statusWord_pcl s,
      statusWord_errcode s, statusWord_tblv s, statusWord_chv s, statusWord_tagchk s, statusWord_tagok s,
      statusWord_reserved s⟩
  case noError =>
    intro hinv herr
    rw [statusWord_err] at herr
    rw [statusWord_errcode, hinv.no_error_code herr]
  case ctrl => exact ⟨ctrlWord_ieDone s, ctrlWord_ieErr s, ctrlWord_reserved s⟩
  case cfg => exact ⟨cfgWord_mode s, cfgWord_dir s, cfgWord_reservedLow s, cfgWord_tlen s, cfgWord_reservedHigh s⟩
  case phaseCodes => exact ⟨rfl, rfl, rfl, rfl, rfl, rfl⟩
  case modeCodes => exact ⟨rfl, rfl, rfl, rfl, rfl, rfl⟩
  case dirCodes => exact ⟨rfl, rfl⟩
  case errorCodes =>
    have hcode := statusWord_errorState_errcode hs stream
    exact ⟨hcode .illegalOp, hcode .illegalField, hcode .noStream, hcode .wrongMode, hcode .sequence, hcode .noIv,
      hcode .noPriorBlock, hcode .tagLenMismatch, hcode .noKey⟩

end Sys2Proof.Machine
end

section
/-! PROOF. The bus: what a read and a write do at each register of the map, and the accesses that have no run. -/

namespace Sys2Proof.Machine

/-! ### Reads -/

theorem busRead_of_some {off : Nat} {v : Word} {s : State} (h : readReg s (regAt off) = some v) :
    busRead off s = { s with rdata := v } := by
  simp [busRead, h]

theorem rdata_of_readReg {off : Nat} {v : Word} {s : State} (h : readReg s (regAt off) = some v) :
    (busRead off s).rdata = v :=
  congrArg State.rdata (busRead_of_some h)

theorem busy_eq_false {s : State} : busy s = false ↔ s.pend = none := by
  simp [busy]

/-- The first offset of a result register (20_memory.md R84). -/
def BlockReg.offset : BlockReg → Nat
  | .dout => 0x030
  | .chain => 0x040
  | .h => 0x050
  | .s => 0x060
  | .j0 => 0x070
  | .tag => 0x080
  | .tagexp => 0x090

theorem regAt_din (k : Fin 4) : regAt (0x020 + 4 * k) = .din k := by
  revert k
  decide

theorem regAt_block (r : BlockReg) (k : Fin 4) : regAt (r.offset + 4 * k) = .block r k := by
  cases r <;> revert k <;> decide

theorem regAt_tblData_word (k : Fin 4) : regAt (0x0D0 + 4 * k) = .tblData k := by
  revert k
  decide

section

variable {s : State}

theorem rdata_din (k : Fin 4) : (busRead (0x020 + 4 * k) s).rdata = blockWord s.din k :=
  rdata_of_readReg (congrArg (readReg s) (regAt_din k))

theorem rdata_block (hpend : s.pend = none) (r : BlockReg) (k : Fin 4) :
    (busRead (r.offset + 4 * k) s).rdata = blockWord (blockRegValue s r) k := by
  apply rdata_of_readReg
  simp [regAt_block, readReg, busy_eq_false.mpr hpend]

theorem rdata_tblData (hpend : s.pend = none) (htblv : s.tblv = true) (k : Fin 4) :
    (busRead (0x0D0 + 4 * k) s).rdata = blockWord (tableAt s.table s.tblIdx) k := by
  apply rdata_of_readReg
  simp [regAt_tblData_word, readReg, busy_eq_false.mpr hpend, htblv]

theorem rdata_lengthHi {off : Nat} {r : LengthReg} (hpend : s.pend = none) (hreg : regAt off = .lengthHi r) :
    (busRead off s).rdata = (lengthRegValue s r).extractLsb' 32 32 := by
  apply rdata_of_readReg
  simp [hreg, readReg, busy_eq_false.mpr hpend, from64To32]

theorem rdata_lengthLo {off : Nat} {r : LengthReg} (hpend : s.pend = none) (hreg : regAt off = .lengthLo r) :
    (busRead off s).rdata = (lengthRegValue s r).extractLsb' 0 32 := by
  apply rdata_of_readReg
  simp [hreg, readReg, busy_eq_false.mpr hpend, from64To32]

theorem rdata_reserved {off : Nat} (hreg : regAt off = .reserved) : (busRead off s).rdata = 0 :=
  rdata_of_readReg (congrArg (readReg s) hreg)

end

/-- Settles O11: each offset holds the register named, and a read answers that register's value. -/
theorem readsReturnTheRegisterMap : Obligations.ReadsReturnTheRegisterMap := by
  intro s
  refine ⟨?frame, rdata_of_readReg rfl, rdata_of_readReg rfl, rdata_of_readReg rfl, rdata_of_readReg rfl,
    rdata_of_readReg rfl, rdata_of_readReg rfl, rdata_din, ?blocks, ?lengths, ?reserved⟩
  case frame =>
    intro off
    obtain ⟨v, -, hread⟩ | ⟨-, hread⟩ := busRead_eq off s
    · exact ⟨v, s.draws, hread⟩
    · exact ⟨_, _, hread⟩
  case blocks =>
    intro hpend k
    have hblock (r : BlockReg) := rdata_block hpend r k
    exact ⟨hblock .dout, hblock .chain, hblock .h, hblock .s, hblock .j0, hblock .tag, hblock .tagexp,
      fun htblv => rdata_tblData hpend htblv k⟩
  case lengths =>
    intro hpend
    exact ⟨rdata_lengthHi hpend (r := .aadlen) rfl, rdata_lengthLo hpend (r := .aadlen) rfl,
      rdata_lengthHi hpend (r := .clen) rfl, rdata_lengthLo hpend (r := .clen) rfl,
      rdata_lengthHi hpend (r := .ivlen) rfl, rdata_lengthLo hpend (r := .ivlen) rfl⟩
  case reserved =>
    have hmap : ∀ off ∈ [0x014, 0x018, 0x01C, 0x0B8, 0x0BC, 0x0C4, 0x0C8, 0x0CC, 0x0E0, 0x0E4, 0x0E8, 0x0EC, 0x0F0,
        0x0F4, 0x0F8, 0x0FC], regAt off = .reserved := by decide
    exact fun off hoff => rdata_reserved (hmap off hoff)

/-! ### Writes -/

/-- The registers whose writes a pending command lets drop (20_memory.md R89, R91). -/
def Reg.needsIdle : Reg → Bool
  | .cmd | .din _ | .tblIdx => true
  | .ctrl | .status | .cfg | .id | .block _ _ | .lengthHi _ | .lengthLo _ | .tblData _ | .reserved => false

/-- The registers that take no write (20_memory.md R89). -/
def Reg.isReadOnly : Reg → Bool
  | .cfg | .id | .block _ _ | .lengthHi _ | .lengthLo _ | .tblData _ | .reserved => true
  | .ctrl | .status | .cmd | .din _ | .tblIdx => false

section

variable {v : Word} {s : State} {r : Reg}

theorem writeReg_of_pending (hpend : s.pend ≠ none) (hr : r.needsIdle = true) : writeReg v s r = overrun s := by
  cases r with
  | cmd | din | tblIdx => exact if_pos (busy_eq_true.mpr hpend)
  | ctrl | status | cfg | id | block | lengthHi | lengthLo | tblData | reserved => cases hr

theorem writeReg_of_readOnly (hr : r.isReadOnly = true) : writeReg v s r = s := by
  cases r with
  | cfg | id | block | lengthHi | lengthLo | tblData | reserved => rfl
  | ctrl | status | cmd | din | tblIdx => cases hr

theorem writeReg_cmd (hpend : s.pend = none) : writeReg v s .cmd = issue v s := by
  simp [writeReg, busy_eq_false.mpr hpend]

theorem writeReg_din (hpend : s.pend = none) (k : Fin 4) :
    writeReg v s (.din k) = { s with din := setBlockWord s.din k v } := by
  simp [writeReg, busy_eq_false.mpr hpend]

theorem writeReg_tblIdx (hpend : s.pend = none) : writeReg v s .tblIdx = { s with tblIdx := v.extractLsb' 0 9 } := by
  simp [writeReg, busy_eq_false.mpr hpend]

end

/-- Every word of the window but the eight that the host can write is read-only (20_memory.md R84, R89). -/
theorem regAt_isReadOnly {off : Nat} (hoff : off < 256) (halign : off % 4 = 0)
    (hmem : off ∉ [0x000, 0x004, 0x008, 0x020, 0x024, 0x028, 0x02C, 0x0C0]) : (regAt off).isReadOnly = true := by
  have hmap : ∀ k : Fin 64, 4 * k.val ∉ [0x000, 0x004, 0x008, 0x020, 0x024, 0x028, 0x02C, 0x0C0] →
      (regAt (4 * k)).isReadOnly = true := by decide
  have hword : 4 * (off / 4) = off := by omega
  have hreg := hmap ⟨off / 4, by omega⟩
  rw [hword] at hreg
  exact hreg hmem

/-- A word that no command has fails at its commit (30_encoding.md R133). -/
theorem commitWord_of_decode_error {w : Word} {d : DecodeError} {s : State} (h : decode w = .error d) :
    ∃ stream e, commitWord w s = .next (Safety.errorState stream e s) := by
  have hcommit : commitWord w s = .next (raiseDecodeError d s) := by simp [commitWord, h]
  rw [hcommit]
  cases d with
  | illegalOp => exact ⟨false, .illegalOp, rfl⟩
  | illegalField op => exact ⟨op.isStream, .illegalField, rfl⟩

/-- Settles O13: each offset holds the register named, and a write does what that register takes. -/
theorem writesFollowTheRegisterMap : Obligations.WritesFollowTheRegisterMap := by
  intro v s
  refine ⟨?enables, ?softReset, statusWriteClearsAndCommitWins.1 v s, ?accepted, ?dropped, ?readOnly,
    fun d => commitWord_of_decode_error⟩
  case enables =>
    intro hsrst
    exact if_neg (Bool.eq_false_iff.mp hsrst)
  case softReset =>
    intro hsrst
    have hwrite : busWrite 0x000 v s = resetBlock s := if_pos hsrst
    exact ⟨_, _, _, _, hwrite⟩
  case accepted =>
    intro hpend
    refine ⟨⟨_, _, writeReg_cmd hpend⟩, fun k => ⟨setBlockWord s.din k v, ?_, fun j => blockWord_setBlockWord s.din k j v⟩,
      writeReg_tblIdx hpend⟩
    rw [busWrite, regAt_din, writeReg_din hpend]
  case dropped =>
    intro hpend off hoff
    have hmap : ∀ off ∈ [0x008, 0x020, 0x024, 0x028, 0x02C, 0x0C0], (regAt off).needsIdle = true := by decide
    exact writeReg_of_pending hpend (hmap off hoff)
  case readOnly =>
    intro off hoff halign hmem
    exact writeReg_of_readOnly (regAt_isReadOnly hoff halign hmem)

/-! ### Accesses without a run -/

theorem step_of_refused {r : Refusal} {s : State} (h : hostPhase s = .refused r) : step s = .refused r := by
  simp [step, h]

/-- Settles O14: a step is refused with its host event, and that with its bus access. -/
theorem unsupportedAccessesAreRefused : Obligations.UnsupportedAccessesAreRefused := by
  intro s addr off bytes strobes v rest
  refine ⟨fun hoff hbad => ?_, fun hoff hbad => ?_, fun haddr => ⟨?_, ?_⟩, fun hoff halign => ⟨?_, ?_⟩⟩
  · exact step_of_refused (busAccess_unsupported busRead _ hoff (hbad.imp_right .inl))
  · exact step_of_refused (busAccess_unsupported (busWrite · v) _ hoff hbad)
  · exact step_of_refused (busAccess_outside bytes 0xF busRead _ haddr)
  · exact step_of_refused (busAccess_outside bytes strobes (busWrite · v) _ haddr)
  · exact hostEvent_read _ hoff halign
  · exact hostEvent_write v _ hoff halign

end Sys2Proof.Machine
end

section
/-! PROOF. The cipher port: the requests that each command's effect records. -/

namespace Sys2Proof.Machine

open Safety

section

variable (nb : BitVec 5) (s : State)

/-- START asks for the subkey, in GCM only (40_control.md R165). -/
theorem startEffect_cipherReqs (mode : BitVec 3) (dir : Dir) (leg : Bool) (tlen : BitVec 8) :
    (startEffect mode dir leg nb tlen s).cipherReqs
      = s.cipherReqs ++ requestsOf (.start mode dir leg nb tlen) s := by
  have hreqs : requestsOf (.start mode dir leg nb tlen) s = if mode = 5 then [.forward 0] else [] := by
    simp [requestsOf, BitVec.toNat_eq]
  rw [hreqs]
  by_cases hmode : mode = 5
  · subst hmode
    rfl
  · rw [startEffect_frame_of_not_gcm _ _ _ _ _ _ hmode, if_neg hmode, List.append_nil]

/-- BLOCK makes one request in every mode: CHAIN's, but in CBC (41_chaining.md R190 to R196, 42_gcm.md R224, R225). -/
theorem blockEffect_cipherReqs (hmode : s.cfgMode ≠ none) :
    (blockEffect nb s).cipherReqs = s.cipherReqs ++ requestsOf (.block nb) s := by
  unfold blockEffect blockBody requestsOf
  split
  case h_1 hnone => exact absurd hnone hmode
  all_goals
    simp only [*]
    rfl

end

/-- An open stream has a mode (10_state.md R45). -/
theorem cfgMode_ne_none_of_open {s : State} (h : Inv s) (hidle : s.phase ≠ .idle) : s.cfgMode ≠ none := by
  intro hnone
  have htext := h.text_of_open hidle (by simp [hnone])
  exact absurd hnone (h.text_phase htext).1

/-- A command that runs records the requests of the table. -/
theorem effectOf_cipherReqs {i : Instr} {s : State} (h : Inv s) (hchecks : firstFailure (checksOf i s) = none) :
    (effectOf i s).cipherReqs = s.cipherReqs ++ requestsOf i s := by
  cases i with
  | start mode dir leg nb tlen => exact startEffect_cipherReqs nb s mode dir leg tlen
  | block nb => exact blockEffect_cipherReqs nb s (cfgMode_ne_none_of_open h (open_of_blockChecks hchecks))
  | gcmFinish => rfl
  | nop | gcmIv | gcmIvend | gcmAad | ghLoadh | ghClear | ghSets | ghStep | ghMulref | ghMultbl | ghMulx | utInc32 =>
    exact (List.append_nil s.cipherReqs).symm

/-- Settles O29: an error records nothing, and an effect the requests of the table. -/
theorem cipherRequestsFollowTheTable : Obligations.CipherRequestsFollowTheTable := by
  intro i s t hinv h
  obtain ⟨e, -, rfl⟩ | ⟨hchecks, rfl⟩ := exec_cases h
  · exact .inr ⟨⟨e, raiseError_eq_errorState _ e s⟩, raiseError_cipherReqs _ e s⟩
  · exact .inl (effectOf_cipherReqs hinv hchecks)

end Sys2Proof.Machine
end

section
/-! PROOF. Streams of BLOCK: one block of a text stream, and CBC over a sequence of blocks in both directions. -/

namespace Sys2Proof.Machine

open Safety

/-! ### One block of a stream -/

theorem runOn_of_success {x : Block} {i : Instr} {s : State}
    (h : firstFailure (checksOf i { s with din := x }) = none) :
    runOn x i s = succeed (effectOf i { s with din := x }) := by
  rw [runOn, exec_eq_commit_effectOf, commit_of_success h]

section

variable {m : Mode} {nb : BitVec 5} {x : Block} {s : State}

/-- A text stream takes every legal byte count, CBC whole blocks only (40_control.md R166). -/
theorem firstFailure_blockChecks_of_textReady (h : textReady m s) (hnb : nbLegal nb = true)
    (hcbc : m = .cbc → nb = 16) : firstFailure (blockChecks nb s) = none := by
  obtain ⟨hphase, hmode, hpcl⟩ := h
  by_cases hgcm : m = .gcm
  · simp [blockChecks, nbCheck, hnb, hphase, hmode, hgcm]
  · simpa [blockChecks, nbCheck, hnb, hphase, hmode, hpcl, hgcm] using hcbc

theorem runOn_block (h : textReady m s) (hnb : nbLegal nb = true) (hcbc : m = .cbc → nb = 16) :
    runOn x (.block nb) s = succeed (blockEffect nb { s with din := x }) :=
  runOn_of_success (firstFailure_blockChecks_of_textReady (s := { s with din := x }) h hnb hcbc)

/-- After a whole block the stream takes the next, in the same direction. -/
theorem textReady_runOn_block (hgcm : m ≠ .gcm) (h : textReady m s) :
    textReady m (runOn x (.block 16) s) ∧ (runOn x (.block 16) s).cfgDir = s.cfgDir := by
  have ⟨hphase, hmode, _⟩ := h
  have hnot : ({ s with din := x } : State).cfgMode ≠ some .gcm := by simpa [hmode] using hgcm
  rw [runOn_block h rfl fun _ => rfl, blockEffect_frame_of_not_gcm 16 hnot]
  exact ⟨⟨hphase, hmode, rfl⟩, rfl⟩

end

/-! ### CBC -/

section

variable {s : State}

theorem runOn_cbcEncrypt (x : Block) (h : textReady .cbc s) (hdir : s.cfgDir = .enc) :
    runOn x (.block 16) s = succeed { cbcEncrypt { s with din := x } with pcl := false } := by
  have ⟨_, hmode, _⟩ := h
  rw [runOn_block h rfl fun _ => rfl]
  simp only [blockEffect, blockBody, hmode, hdir]
  rfl

theorem runOn_cbcDecrypt (x : Block) (h : textReady .cbc s) (hdir : s.cfgDir = .dec) :
    runOn x (.block 16) s = succeed { cbcDecrypt { s with din := x } with pcl := false } := by
  have ⟨_, hmode, _⟩ := h
  rw [runOn_block h rfl fun _ => rfl]
  simp only [blockEffect, blockBody, hmode, hdir]
  rfl

/-- An encrypting CBC stream gives the ciphertext blocks of the chaining law (41_chaining.md R192). -/
theorem outputs_cbcEncrypt (xs : List Block) (h : textReady .cbc s) (hdir : s.cfgDir = .enc) :
    outputs .block (xs.map fun x => (x, 16)) s = cbcCiphertext s.chain xs := by
  induction xs generalizing s with
  | nil => rfl
  | cons x rest ih =>
    obtain ⟨hready, hdir'⟩ := textReady_runOn_block (m := .cbc) (x := x) nofun h
    rw [List.map_cons, outputs, ih hready (hdir'.trans hdir), runOn_cbcEncrypt x h hdir]
    rfl

/-- A decrypting CBC stream gives the plaintext blocks of the chaining law (41_chaining.md R192). -/
theorem outputs_cbcDecrypt (ys : List Block) (h : textReady .cbc s) (hdir : s.cfgDir = .dec) :
    outputs .block (ys.map fun y => (y, 16)) s = cbcPlaintext s.chain ys := by
  induction ys generalizing s with
  | nil => rfl
  | cons y rest ih =>
    obtain ⟨hready, hdir'⟩ := textReady_runOn_block (m := .cbc) (x := y) nofun h
    rw [List.map_cons, outputs, ih hready (hdir'.trans hdir), runOn_cbcDecrypt y h hdir]
    rfl

end

/-- Decrypting the ciphertext of CBC from the same chaining block leaves each block's input under the two ciphers. -/
theorem cbcPlaintext_cbcCiphertext (c : Block) (xs : List Block) :
    cbcPlaintext c (cbcCiphertext c xs)
      = (xs.zip (c :: cbcCiphertext c xs)).map fun pc => Config.cipherD (Config.cipherE (pc.1 ^^^ pc.2)) ^^^ pc.2 := by
  induction xs generalizing c with
  | nil => rfl
  | cons x rest ih => rw [cbcCiphertext, cbcPlaintext, ih, List.zip_cons_cons, List.map_cons]

/-- Settles O36: by the chaining law in each direction, and the law's own round trip. -/
theorem cbcRoundTripsUpToCipher : Obligations.CbcRoundTripsUpToCipher := by
  intro xs s t hs ht hsdir htdir hchain
  rw [outputs_cbcEncrypt xs hs hsdir, outputs_cbcDecrypt _ ht htdir, hchain]
  exact cbcPlaintext_cbcCiphertext s.chain xs

end Sys2Proof.Machine
end

section
/-! PROOF. The words and the commands: what the decoder checks of a word's fields, the fields of a command's own word, and
the two round trips between them. -/

namespace Sys2Proof

/-! ### The opcode map -/

theorem bits_of_opcodeOf {b : BitVec 8} {op : Opcode} (h : opcodeOf b = some op) : op.bits = b := by
  unfold opcodeOf at h
  split at h <;> cases h <;> exact BitVec.eq_of_toNat_eq (Eq.symm ‹_›)

/-- The OP values of the opcode map (30_encoding.md R130). -/
theorem bits_mem_opcodeMap (op : Opcode) :
    op.bits.toNat ∈ [0x00, 0x01, 0x02, 0x03, 0x04, 0x05, 0x06, 0x10, 0x11, 0x12, 0x13, 0x14, 0x15, 0x16, 0x20] := by
  cases op <;> decide

theorem opcodeOf_of_not_mem {b : BitVec 8}
    (h : b.toNat ∉ [0x00, 0x01, 0x02, 0x03, 0x04, 0x05, 0x06, 0x10, 0x11, 0x12, 0x13, 0x14, 0x15, 0x16, 0x20]) :
    opcodeOf b = none := by
  cases hop : opcodeOf b with
  | none => rfl
  | some op => exact absurd (bits_of_opcodeOf hop ▸ bits_mem_opcodeMap op) h

/-! ### The field checks of the decoder -/

/-- The fields of a word are legal for an operation: the lines of the decode function after the first (30_encoding.md
R135). -/
structure FieldsLegal (op : Opcode) (w : Word) : Prop where
  /-- Bits 15:13 are 0 (30_encoding.md R128). -/
  reservedLow_zero : reservedLow w = 0
  /-- Bits 23:21 are 0 (30_encoding.md R128). -/
  reservedHigh_zero : reservedHigh w = 0
  /-- MODE, DIR and LEG belong to START alone (30_encoding.md R129). -/
  selector_zero : op ≠ .start → selectorBits w = 0
  /-- TLEN belongs to START alone (30_encoding.md R129). -/
  tlen_zero : op ≠ .start → tlenField w = 0
  /-- A block command takes 1 to 16 bytes (30_encoding.md R124). -/
  nb_legal : op.takesByteCount = true → nbLegal (nbField w) = true
  /-- NB belongs to START and the block commands (30_encoding.md R129). -/
  nb_zero : op.takesByteCount = false → op ≠ .start → nbField w = 0

section

variable {op : Opcode} {w : Word}

theorem decode_of_no_opcode (hop : opcodeOf (opField w) = none) : decode w = .error .illegalOp := by
  simp only [decode, hop]

theorem decode_of_fieldsLegal (hop : opcodeOf (opField w) = some op) (h : FieldsLegal op w) :
    decode w = .ok (assemble op w) := by
  have hreserved : ¬ (reservedLow w ≠ 0 ∨ reservedHigh w ≠ 0) := by
    simp [h.reservedLow_zero, h.reservedHigh_zero]
  have hunused : ¬ (op ≠ .start ∧ (selectorBits w ≠ 0 ∨ tlenField w ≠ 0)) := fun ⟨hstart, hset⟩ =>
    hset.elim (· (h.selector_zero hstart)) (· (h.tlen_zero hstart))
  have hcount : ¬ (op.takesByteCount = true ∧ nbLegal (nbField w) = false) := fun ⟨htakes, hnb⟩ => by
    simp [h.nb_legal htakes] at hnb
  have hnone : ¬ (op.takesByteCount = false ∧ op ≠ .start ∧ nbField w ≠ 0) := fun ⟨htakes, hstart, hnb⟩ =>
    hnb (h.nb_zero htakes hstart)
  simp only [decode, hop, if_neg hreserved, if_neg hunused, if_neg hcount, if_neg hnone]

theorem decode_of_not_fieldsLegal (hop : opcodeOf (opField w) = some op) (h : ¬ FieldsLegal op w) :
    decode w = .error (.illegalField op) := by
  simp only [decode, hop]
  split_ifs with hreserved hunused hcount hnone
  · rfl
  · rfl
  · rfl
  · rfl
  · rw [not_or, not_not, not_not] at hreserved
    obtain ⟨hlow, hhigh⟩ := hreserved
    refine absurd ⟨hlow, hhigh, ?_, ?_, ?_, ?_⟩ h
    · exact fun hstart => by_contra fun hset => hunused ⟨hstart, .inl hset⟩
    · exact fun hstart => by_contra fun hset => hunused ⟨hstart, .inr hset⟩
    · exact fun htakes => Bool.of_not_eq_false fun hnb => hcount ⟨htakes, hnb⟩
    · exact fun htakes hstart => by_contra fun hnb => hnone ⟨htakes, hstart, hnb⟩

/-- What a word that decodes is: an operation of the map with fields that are legal for it. -/
theorem decode_eq_ok {i : Instr} (h : decode w = .ok i) :
    ∃ op, opcodeOf (opField w) = some op ∧ FieldsLegal op w ∧ i = assemble op w := by
  cases hop : opcodeOf (opField w) with
  | none => cases (decode_of_no_opcode hop).symm.trans h
  | some op =>
    by_cases hlegal : FieldsLegal op w
    · exact ⟨op, rfl, hlegal, by simpa using h.symm.trans (decode_of_fieldsLegal hop hlegal)⟩
    · cases (decode_of_not_fieldsLegal hop hlegal).symm.trans h

theorem opcode_assemble (op : Opcode) (w : Word) : (assemble op w).opcode = op := by
  cases op <;> rfl

theorem wf_assemble (h : FieldsLegal op w) : (assemble op w).wf = true := by
  cases op with
  | block | gcmIv | gcmAad | ghStep => exact h.nb_legal rfl
  | nop | start | gcmIvend | gcmFinish | ghLoadh | ghClear | ghSets | ghMulref | ghMultbl | ghMulx | utInc32 => rfl

end

/-! ### A word is its fields -/

/-- Two words that agree on a field agree on its bits. -/
theorem getLsbD_of_field_eq {v w : Word} {k len i : Nat} (h : v.extractLsb' k len = w.extractLsb' k len) (hk : k ≤ i)
    (hi : i < k + len) : v.getLsbD i = w.getLsbD i := by
  obtain ⟨j, rfl⟩ := Nat.exists_eq_add_of_le hk
  have hj : j < len := by omega
  simpa [hj] using congrArg (·.getLsbD j) h

/-- Two words are equal when their fields are: the six fields cover all 32 bits (30_encoding.md R121). -/
theorem word_ext {v w : Word} (hop : opField v = opField w) (hselector : selectorBits v = selectorBits w)
    (hlow : reservedLow v = reservedLow w) (hnb : nbField v = nbField w) (hhigh : reservedHigh v = reservedHigh w)
    (htlen : tlenField v = tlenField w) : v = w := by
  apply BitVec.eq_of_getLsbD_eq
  intro i hi
  obtain h | ⟨hl, h⟩ | ⟨hl, h⟩ | ⟨hl, h⟩ | ⟨hl, h⟩ | hl :
      i < 8 ∨ (8 ≤ i ∧ i < 13) ∨ (13 ≤ i ∧ i < 16) ∨ (16 ≤ i ∧ i < 21) ∨ (21 ≤ i ∧ i < 24) ∨ 24 ≤ i := by omega
  · exact getLsbD_of_field_eq hop (Nat.zero_le i) (by omega)
  · exact getLsbD_of_field_eq hselector hl h
  · exact getLsbD_of_field_eq hlow hl h
  · exact getLsbD_of_field_eq hnb hl h
  · exact getLsbD_of_field_eq hhigh hl h
  · exact getLsbD_of_field_eq htlen hl hi

theorem bit_dirField (w : Word) : (dirField w).bit = w.getLsbD 11 := by
  unfold dirField
  cases w.getLsbD 11 <;> rfl

/-- Bits 12:8 are LEG, DIR and MODE (30_encoding.md R121). -/
theorem selectorBits_eq_append (w : Word) :
    selectorBits w = BitVec.ofBool (legField w) ++ BitVec.ofBool (dirField w).bit ++ modeField w := by
  apply BitVec.eq_of_getLsbD_eq
  intro i hi
  rw [BitVec.getLsbD_append, BitVec.getLsbD_append, bit_dirField]
  obtain h | rfl | rfl : i < 3 ∨ i = 3 ∨ i = 4 := by omega
  · simp [selectorBits, modeField, h, hi]
  · simp [selectorBits]
  · simp [selectorBits, legField]

theorem selectorBits_packWord (tlen : BitVec 8) (nb : BitVec 5) (leg : Bool) (dir : Dir) (mode : BitVec 3)
    (op : BitVec 8) :
    selectorBits (packWord tlen nb leg dir.bit mode op) = BitVec.ofBool leg ++ BitVec.ofBool dir.bit ++ mode := by
  rw [selectorBits_eq_append, legField_packWord, dirField_packWord, modeField_packWord]

section

variable (op : Opcode) (nb : BitVec 5)

@[simp] theorem opField_packByteCount : opField (packByteCount op nb) = op.bits :=
  opField_packWord ..

@[simp] theorem selectorBits_packByteCount : selectorBits (packByteCount op nb) = 0 :=
  selectorBits_packWord 0 nb false .enc 0 op.bits

@[simp] theorem reservedLow_packByteCount : reservedLow (packByteCount op nb) = 0 :=
  reservedLow_packWord ..

@[simp] theorem nbField_packByteCount : nbField (packByteCount op nb) = nb :=
  nbField_packWord ..

@[simp] theorem reservedHigh_packByteCount : reservedHigh (packByteCount op nb) = 0 :=
  reservedHigh_packWord ..

@[simp] theorem tlenField_packByteCount : tlenField (packByteCount op nb) = 0 :=
  tlenField_packWord ..

/-- A word without fields is one whose NB is 0. -/
theorem packPlain_eq_packByteCount : packPlain op = packByteCount op 0 := rfl

end

/-! ### The word of a command decodes to it -/

theorem opcodeOf_encode (i : Instr) : opcodeOf (opField (encode i)) = some i.opcode := by
  cases i with
  | nop => exact Laws.EncodedOpcode.nop
  | start mode dir leg nb tlen => exact Laws.EncodedOpcode.start mode dir leg nb tlen
  | block nb => exact Laws.EncodedOpcode.block nb
  | gcmIv nb => exact Laws.EncodedOpcode.gcmIv nb
  | gcmIvend => exact Laws.EncodedOpcode.gcmIvend
  | gcmAad nb => exact Laws.EncodedOpcode.gcmAad nb
  | gcmFinish => exact Laws.EncodedOpcode.gcmFinish
  | ghLoadh => exact Laws.EncodedOpcode.ghLoadh
  | ghClear => exact Laws.EncodedOpcode.ghClear
  | ghSets => exact Laws.EncodedOpcode.ghSets
  | ghStep nb => exact Laws.EncodedOpcode.ghStep nb
  | ghMulref => exact Laws.EncodedOpcode.ghMulref
  | ghMultbl => exact Laws.EncodedOpcode.ghMultbl
  | ghMulx => exact Laws.EncodedOpcode.ghMulx
  | utInc32 => exact Laws.EncodedOpcode.utInc32

theorem fieldsLegal_start {w : Word} (hlow : reservedLow w = 0) (hhigh : reservedHigh w = 0) : FieldsLegal .start w :=
  ⟨hlow, hhigh, fun h => absurd rfl h, fun h => absurd rfl h, nofun, fun _ h => absurd rfl h⟩

section

variable {op : Opcode} {nb : BitVec 5}

theorem fieldsLegal_packByteCount (htakes : op.takesByteCount = true) (hnb : nbLegal nb = true) :
    FieldsLegal op (packByteCount op nb) where
  reservedLow_zero := reservedLow_packByteCount op nb
  reservedHigh_zero := reservedHigh_packByteCount op nb
  selector_zero _ := selectorBits_packByteCount op nb
  tlen_zero _ := tlenField_packByteCount op nb
  nb_legal _ := by rw [nbField_packByteCount, hnb]
  nb_zero hnone := by simp [htakes] at hnone

theorem fieldsLegal_packPlain (hnone : op.takesByteCount = false) : FieldsLegal op (packPlain op) where
  reservedLow_zero := reservedLow_packByteCount op 0
  reservedHigh_zero := reservedHigh_packByteCount op 0
  selector_zero _ := selectorBits_packByteCount op 0
  tlen_zero _ := tlenField_packByteCount op 0
  nb_legal htakes := by simp [hnone] at htakes
  nb_zero _ _ := nbField_packByteCount op 0

end

theorem fieldsLegal_encode {i : Instr} (hwf : i.wf = true) : FieldsLegal i.opcode (encode i) := by
  cases i with
  | start mode dir leg nb tlen => exact fieldsLegal_start (reservedLow_packWord ..) (reservedHigh_packWord ..)
  | block nb | gcmIv nb | gcmAad nb | ghStep nb => exact fieldsLegal_packByteCount rfl hwf
  | nop | gcmIvend | gcmFinish | ghLoadh | ghClear | ghSets | ghMulref | ghMultbl | ghMulx | utInc32 =>
    exact fieldsLegal_packPlain rfl

/-- The fields read from a command's word are the command's. -/
theorem assemble_encode (i : Instr) : assemble i.opcode (encode i) = i := by
  cases i with
  | start mode dir leg nb tlen => simp [encode, assemble, Instr.opcode]
  | block nb | gcmIv nb | gcmAad nb | ghStep nb => exact congrArg _ (nbField_packByteCount _ nb)
  | nop | gcmIvend | gcmFinish | ghLoadh | ghClear | ghSets | ghMulref | ghMultbl | ghMulx | utInc32 => rfl

/-- Settles O2: the word has the command's operation, its fields are legal, and they are the command's. -/
theorem decodeInvertsEncode : Obligations.DecodeInvertsEncode := by
  intro i hwf
  rw [decode_of_fieldsLegal (opcodeOf_encode i) (fieldsLegal_encode hwf), assemble_encode]

/-! ### A word that decodes is the word of its command -/

section

variable {op : Opcode} {w : Word}

/-- A word whose fields are legal for START is START's word with the fields read from it. -/
theorem packWord_fields (h : FieldsLegal .start w) :
    packWord (tlenField w) (nbField w) (legField w) (dirField w).bit (modeField w) (opField w) = w :=
  word_ext (opField_packWord ..) ((selectorBits_packWord ..).trans (selectorBits_eq_append w).symm)
    ((reservedLow_packWord ..).trans h.reservedLow_zero.symm) (nbField_packWord ..)
    ((reservedHigh_packWord ..).trans h.reservedHigh_zero.symm) (tlenField_packWord ..)

/-- A word whose fields are legal for another operation is packed from OP and NB alone. -/
theorem packByteCount_nbField (hop : op.bits = opField w) (hstart : op ≠ .start) (h : FieldsLegal op w) :
    packByteCount op (nbField w) = w :=
  word_ext ((opField_packByteCount ..).trans hop)
    ((selectorBits_packByteCount ..).trans (h.selector_zero hstart).symm)
    ((reservedLow_packByteCount ..).trans h.reservedLow_zero.symm) (nbField_packByteCount ..)
    ((reservedHigh_packByteCount ..).trans h.reservedHigh_zero.symm)
    ((tlenField_packByteCount ..).trans (h.tlen_zero hstart).symm)

theorem packPlain_of_fieldsLegal (hop : op.bits = opField w) (hstart : op ≠ .start) (hnone : op.takesByteCount = false)
    (h : FieldsLegal op w) : packPlain op = w := by
  rw [packPlain_eq_packByteCount, ← h.nb_zero hnone hstart, packByteCount_nbField hop hstart h]

theorem encode_assemble (hop : op.bits = opField w) (h : FieldsLegal op w) : encode (assemble op w) = w := by
  cases op with
  | start => exact (congrArg (packWord _ _ _ _ _) hop).trans (packWord_fields h)
  | block | gcmIv | gcmAad | ghStep => exact packByteCount_nbField hop nofun h
  | nop | gcmIvend | gcmFinish | ghLoadh | ghClear | ghSets | ghMulref | ghMultbl | ghMulx | utInc32 =>
    exact packPlain_of_fieldsLegal hop nofun rfl h

end

/-- Settles O3: a word that decodes has an operation and fields legal for it, and such a word is packed from them. -/
theorem encodeInvertsDecode : Obligations.EncodeInvertsDecode := by
  intro w i h
  obtain ⟨op, hop, hlegal, rfl⟩ := decode_eq_ok h
  exact ⟨encode_assemble (bits_of_opcodeOf hop) hlegal, wf_assemble hlegal⟩

/-- The two round trips together: the words of the well-formed commands are the words that decode. -/
theorem decode_eq_ok_iff {w : Word} {i : Instr} : decode w = .ok i ↔ encode i = w ∧ i.wf = true :=
  ⟨encodeInvertsDecode w i, fun ⟨hword, hwf⟩ => hword ▸ decodeInvertsEncode i hwf⟩

/-- Settles O1: each word is the encoding of its command, and the command is well-formed. -/
theorem writtenWordsDecode : Obligations.WrittenWordsDecode := by
  refine ⟨?_, ?_, ?_, ?_, ?_, ?_, ?_, ?_, ?_, ?_⟩ <;> exact decode_eq_ok_iff.mpr (by decide)

end Sys2Proof
end

section
/-! PROOF. The words that no command has: how the commit of such a word fails, and the byte counts that a block command
refuses. -/

namespace Sys2Proof.Machine

open Safety

/-! ### The commit of a word that is no command -/

section

variable {op : Opcode} {w : Word} {s : State}

theorem commitWord_eq_raiseDecodeError {d : DecodeError} (h : decode w = .error d) :
    commitWord w s = .next (raiseDecodeError d s) := by
  simp only [commitWord, h]

theorem commitWord_of_no_opcode (hop : opcodeOf (opField w) = none) :
    commitWord w s = .next (errorState false .illegalOp s) :=
  commitWord_eq_raiseDecodeError (decode_of_no_opcode hop)

theorem commitWord_of_not_fieldsLegal (hop : opcodeOf (opField w) = some op) (h : ¬ FieldsLegal op w) :
    commitWord w s = .next (errorState op.isStream .illegalField s) :=
  commitWord_eq_raiseDecodeError (decode_of_not_fieldsLegal hop h)

end

/-- Settles O4: a word that decodes has its command's OP, and an OP outside the map names no operation. -/
theorem operationFieldSelectsCommand : Obligations.OperationFieldSelectsCommand := by
  refine ⟨fun w i h => ?_, fun w s hmap => commitWord_of_no_opcode (opcodeOf_of_not_mem hmap)⟩
  obtain ⟨op, hop, -, rfl⟩ := decode_eq_ok h
  rw [opcode_assemble]
  exact bits_of_opcodeOf hop

/-- The operations that do not use NB (30_encoding.md R121, R129). -/
theorem not_mem_byteCount_operations {op : Opcode} (h : op ∉ [.start, .block, .gcmIv, .gcmAad, .ghStep]) :
    op.takesByteCount = false ∧ op ≠ .start := by
  cases op with
  | start | block | gcmIv | gcmAad | ghStep => simp at h
  | nop | gcmIvend | gcmFinish | ghLoadh | ghClear | ghSets | ghMulref | ghMultbl | ghMulx | utInc32 =>
    exact ⟨rfl, nofun⟩

/-- Settles O5: each of the four ways to set such a bit breaks one of the field checks. -/
theorem reservedOrUnusedBitsFail : Obligations.ReservedOrUnusedBitsFail := by
  intro w op s hbits hset
  have hop : opcodeOf (opField w) = some op := (congrArg opcodeOf hbits).symm.trans (opcodeOf_bits op)
  refine commitWord_of_not_fieldsLegal hop fun hlegal => ?_
  obtain hlow | hhigh | ⟨hstart, hselector | htlen⟩ | ⟨hunused, hnb⟩ := hset
  · exact hlow hlegal.reservedLow_zero
  · exact hhigh hlegal.reservedHigh_zero
  · exact hselector (hlegal.selector_zero hstart)
  · exact htlen (hlegal.tlen_zero hstart)
  · obtain ⟨hnone, hstart⟩ := not_mem_byteCount_operations hunused
    exact hnb (hlegal.nb_zero hnone hstart)

/-! ### Byte counts out of range -/

theorem nbLegal_eq_false {nb : BitVec 5} (h : nb.toNat = 0 ∨ 16 < nb.toNat) : nbLegal nb = false := by
  simp only [nbLegal, Bool.and_eq_false_iff, decide_eq_false_iff_not]
  omega

section

variable {op : Opcode} {nb : BitVec 5} {s : State}

/-- A commit whose first check is that of NB fails there when NB is not legal (60_exceptions.md R315). -/
theorem commit_of_illegal_byteCount (hnb : nbLegal nb = false) (checks : List Check) (effect : State → State) :
    commit op (nbCheck nb :: checks) effect s = .next (errorState op.isStream .illegalField s) :=
  commit_of_failure (by simp [nbCheck, hnb])

theorem commitWord_of_illegal_byteCount (hnb : nbLegal nb = false) (htakes : op.takesByteCount = true) :
    commitWord (packByteCount op nb) s = .next (errorState op.isStream .illegalField s) := by
  have hop : opcodeOf (opField (packByteCount op nb)) = some op := by simp
  refine commitWord_of_not_fieldsLegal hop fun hlegal => ?_
  simpa [hnb] using hlegal.nb_legal htakes

end

/-- Settles O6: NB is the first check of each block command's meaning, and a field check of its word. -/
theorem byteCountOutsideRangeFails : Obligations.ByteCountOutsideRangeFails := by
  intro nb s h
  have hnb := nbLegal_eq_false h
  refine ⟨⟨?block, ?gcmIv, ?gcmAad, ?ghStep⟩, ?words⟩
  case block => exact (exec_block nb s).trans (commit_of_illegal_byteCount hnb _ _)
  case gcmIv => exact (exec_gcmIv nb s).trans (commit_of_illegal_byteCount hnb _ _)
  case gcmAad => exact (exec_gcmAad nb s).trans (commit_of_illegal_byteCount hnb _ _)
  case ghStep => exact (exec_ghStep nb s).trans (commit_of_illegal_byteCount hnb _ _)
  case words =>
    have hword {op : Opcode} := commitWord_of_illegal_byteCount (op := op) (s := s) hnb
    exact ⟨hword rfl, hword rfl, hword rfl, hword rfl⟩

end Sys2Proof.Machine
end

section
/-! PROOF. The checks of START against the lines of its rule, and those of the other stream commands against the acceptance
matrix. -/

namespace Sys2Proof.Machine

open Safety

/-! ### The checks of START -/

/-- Peels one line of a rule's check list: a check that fails just where the line's condition holds. -/
theorem firstFailure_cons_eq_ite {c : Check} {rest : List Check} {P : Prop} [Decidable P] {r : Option ErrCode}
    (hfails : c.holds = false ↔ P) (hrest : firstFailure rest = r) :
    firstFailure (c :: rest) = if P then some c.code else r := by
  rw [firstFailure_cons, hrest]
  by_cases hP : P
  · simp [hP, hfails.mpr hP]
  · simp [hP, Bool.of_not_eq_false (hfails.not.mpr hP)]

/-- A MODE field names a mode exactly when it is that mode's number (30_encoding.md R123). -/
theorem modeOf_eq_some {mode : BitVec 3} {m : Mode} : modeOf mode = some m ↔ mode = modeBits (some m) := by
  revert mode
  cases m <;> decide

theorem isSome_modeOf (mode : BitVec 3) : (modeOf mode).isSome = decide (1 ≤ mode.toNat ∧ mode.toNat ≤ 5) := by
  revert mode
  decide

theorem toNat_effectiveTlen (tlen : BitVec 8) :
    (effectiveTlen tlen).toNat = if tlen = 0 then 128 else tlen.toNat := by
  rw [effectiveTlen, apply_ite BitVec.toNat]
  rfl

theorem tlenLegal_iff {tlen : BitVec 8} :
    tlenLegal tlen = true ↔ tlen = 0 ∨ tlen.toNat % 8 = 0 ∧ 8 ≤ tlen.toNat ∧ tlen.toNat ≤ 128 := by
  simp [tlenLegal, BitVec.toNat_eq, and_assoc]

section

variable {mode : BitVec 3} {dir : Dir} {leg : Bool} {nb : BitVec 5} {tlen : BitVec 8} {s : State}

/-- START's checks fail by the lines of its rule, in their order; of the lines on TLEN and NB, those of the other kind of
mode never apply (40_control.md R161). -/
theorem firstFailure_startChecks :
    firstFailure (startChecks mode dir leg nb tlen s) = startError mode dir leg nb tlen s.chv := by
  have hcbc : modeOf mode = some .cbc ↔ mode.toNat = 1 := modeOf_eq_some.trans BitVec.toNat_eq
  have hgcm : modeOf mode = some .gcm ↔ mode.toNat = 5 := modeOf_eq_some.trans BitVec.toNat_eq
  have hleg : (!leg || modeOf mode == some .cbc) = false ↔ leg = true ∧ mode.toNat ≠ 1 := by simp [hcbc]
  have hchv : (!leg || s.chv) = false ↔ leg = true ∧ s.chv = false := by simp
  have htag : (!(modeOf mode == some .gcm && dir == .dec) || 8 * nb.toNat == (effectiveTlen tlen).toNat) = false
      ↔ mode.toNat = 5 ∧ dir = .dec ∧ 8 * nb.toNat ≠ if tlen = 0 then 128 else tlen.toNat := by
    simp [hgcm, toNat_effectiveTlen, and_assoc]
  refine firstFailure_cons_eq_ite (by simp [isSome_modeOf]) (firstFailure_cons_eq_ite (by simp) ?_)
  by_cases hmode : mode.toNat = 5
  · rw [if_pos (hgcm.mpr hmode), if_neg fun hother => hother.1 hmode]
    refine firstFailure_cons_eq_ite (by rw [← tlenLegal_iff]; simp [hmode]) (firstFailure_cons_eq_ite ?_ ?_)
    · cases dir <;> simp [hmode]
    · exact firstFailure_cons_eq_ite hleg (firstFailure_cons_eq_ite hchv (firstFailure_cons_eq_ite htag rfl))
  · rw [if_neg (hgcm.not.mpr hmode)]
    refine firstFailure_cons_eq_ite (by simp [hmode]) ?_
    rw [if_neg fun hother => hmode hother.1, if_neg fun hother => hmode hother.1]
    exact firstFailure_cons_eq_ite hleg (firstFailure_cons_eq_ite hchv (firstFailure_cons_eq_ite htag rfl))

theorem exec_start_of_error {e : ErrCode} (h : startError mode dir leg nb tlen s.chv = some e) :
    exec (.start mode dir leg nb tlen) s = .next (errorState true e s) :=
  commit_of_failure (firstFailure_startChecks.trans h)

theorem exec_start_of_accepted (h : startError mode dir leg nb tlen s.chv = none) :
    exec (.start mode dir leg nb tlen) s = .next (succeed (startEffect mode dir leg nb tlen s)) :=
  commit_of_success (firstFailure_startChecks.trans h)

/-- A START that runs names a mode. -/
theorem mode_of_startChecks (hchecks : firstFailure (startChecks mode dir leg nb tlen s) = none) :
    ∃ m, modeOf mode = some m := by
  rw [firstFailure_eq_none] at hchecks
  exact Option.isSome_iff_exists.mp (hchecks ⟨.illegalField, (modeOf mode).isSome⟩ (by simp [startChecks]))

/-- What START latches and where its stream begins, in any mode (40_control.md R162, R167). -/
theorem startEffect_latches {m : Mode} (hmode : modeOf mode = some m) :
    startEffect mode dir leg nb tlen s = { startEffect mode dir leg nb tlen s with
      cfgMode := some m, cfgDir := dir, cfgTlen := if m = .gcm then effectiveTlen tlen else 0, pcl := false
      tagchk := false, tagok := false, phase := if m = .gcm then .gcmIv else .text } := by
  unfold startEffect
  rw [hmode]
  cases m <;> rfl

end

/-! ### The checks of the other stream commands -/

/-- PHASE and CFG.MODE speak of the same kind of stream, where one is open: what the checks need of the invariant. -/
def ModeFitsPhase (s : State) : Prop :=
  s.phase ≠ .idle → (s.cfgMode = some .gcm ↔ isGcmPhase s.phase = true)

theorem modeFitsPhase_of_inv {s : State} (h : Inv s) : ModeFitsPhase s :=
  fun hidle => ⟨h.gcm_of_open hidle, fun hphase => (h.gcm_phase hphase).1⟩

/-- The one error of a stream command that the acceptance matrix does not show: that of a partial block of CBC
(40_control.md R168). -/
def partialBlockError : Instr → State → Option ErrCode
  | .block nb, s => if s.cfgMode = some .cbc ∧ nb ≠ 16 then some .illegalField else none
  | _, _ => none

section

variable {i : Instr} {s t : State}

/-- The two checks that every GCM_* command begins with, in the columns of the matrix. -/
theorem firstFailure_gcmStreamChecks (hfits : ModeFitsPhase s) :
    firstFailure (gcmStreamChecks s)
      = if s.phase = .idle then some .noStream else if isGcmPhase s.phase = true then none else some .wrongMode := by
  by_cases hidle : s.phase = .idle
  · simp [gcmStreamChecks, hidle]
  · simp [gcmStreamChecks, hidle, hfits hidle]

/-- BLOCK's row of the matrix: its checks differ in GCM and in the other modes. -/
theorem firstFailure_blockChecks {nb : BitVec 5} (hfits : ModeFitsPhase s) (hnb : nbLegal nb = true) :
    firstFailure (blockChecks nb s) = (acceptance .block s.phase s.pcl).or (partialBlockError (.block nb) s) := by
  by_cases hidle : s.phase = .idle
  · simp [blockChecks, nbCheck, hnb, hidle, acceptance]
  have hgcm := hfits hidle
  by_cases hmode : s.cfgMode = some .gcm
  · cases hphase : s.phase with
    | idle => exact absurd hphase hidle
    | text => simp [hmode, hphase, isGcmPhase] at hgcm
    | gcmIv | gcmAad | gcmDone => simp [blockChecks, nbCheck, hnb, hmode, hphase, acceptance, partialBlockError]
    | gcmText =>
      cases hpcl : s.pcl <;> simp [blockChecks, nbCheck, hnb, hmode, hphase, hpcl, acceptance, partialBlockError]
  · cases hphase : s.phase with
    | idle => exact absurd hphase hidle
    | text =>
      have hrest : firstFailure [⟨.illegalField, s.cfgMode != some .cbc || nb == 16⟩]
          = partialBlockError (.block nb) s :=
        firstFailure_cons_eq_ite (by simp) rfl
      cases hpcl : s.pcl <;> simp [blockChecks, nbCheck, hnb, hmode, hphase, hpcl, acceptance, ← hrest]
    | gcmIv | gcmAad | gcmText | gcmDone => simp [hmode, hphase, isGcmPhase] at hgcm

/-- The first error of a stream command other than START is that of its cell of the acceptance matrix; in a cell that
accepts it, a partial block of CBC still fails (40_control.md R168, 60_exceptions.md R315). -/
theorem firstFailure_checksOf (hfits : ModeFitsPhase s) (hwf : i.wf = true) (hi : i.opcode.isStream = true)
    (hstart : i.opcode ≠ .start) :
    firstFailure (checksOf i s) = (acceptance i.opcode s.phase s.pcl).or (partialBlockError i s) := by
  have hstream := firstFailure_gcmStreamChecks hfits
  cases i with
  | block nb => exact firstFailure_blockChecks hfits hwf
  | gcmIv nb | gcmAad nb =>
    -- the row of the matrix, cell by cell
    replace hwf : nbLegal nb = true := hwf
    cases hphase : s.phase <;> cases hpcl : s.pcl <;>
      simp [checksOf, nbCheck, hwf, firstFailure_append, hstream, hphase, hpcl, isGcmPhase, Instr.opcode, acceptance,
        partialBlockError]
  | gcmIvend | gcmFinish =>
    cases hphase : s.phase <;>
      simp [checksOf, firstFailure_append, hstream, hphase, isGcmPhase, Instr.opcode, acceptance, partialBlockError]
  | start => exact absurd rfl hstart
  | nop | ghLoadh | ghClear | ghSets | ghStep | ghMulref | ghMultbl | ghMulx | utInc32 => cases hi

/-- In a cell that shows an error, the command fails with it. -/
theorem exec_of_acceptance_error {e : ErrCode} (hfits : ModeFitsPhase s) (hwf : i.wf = true)
    (hi : i.opcode.isStream = true) (hstart : i.opcode ≠ .start) (hcell : acceptance i.opcode s.phase s.pcl = some e) :
    exec i s = .next (errorState true e s) := by
  have hfails : firstFailure (checksOf i s) = some e := by
    rw [firstFailure_checksOf hfits hwf hi hstart, hcell, Option.some_or]
  rw [exec_eq_commit_effectOf, commit_of_failure hfails, hi, raiseError_eq_errorState]

end

end Sys2Proof.Machine
end

section
/-! PROOF. PHASE and PCL: how each effect moves them, and which stream commands run. -/

namespace Sys2Proof.Machine

open Safety

section

variable {nb : BitVec 5} {i : Instr} {s : State}

/-- BLOCK of GCM runs in the phases after GCM_IVEND and before GCM_FINISH (40_control.md R166). -/
theorem phase_of_blockChecks_gcm (h : Inv s) (hmode : s.cfgMode = some .gcm)
    (hchecks : firstFailure (blockChecks nb s) = none) : s.phase = .gcmAad ∨ s.phase = .gcmText := by
  have hgcm := h.gcm_of_open (open_of_blockChecks hchecks) hmode
  have hdone := not_done_of_blockChecks hmode hchecks
  have hiv : s.phase ≠ .gcmIv := by
    simpa using (firstFailure_eq_none _).mp hchecks ⟨.noIv, s.phase != .gcmIv⟩ (by simp [blockChecks, hmode])
  cases hphase : s.phase with
  | idle | text => simp [hphase, isGcmPhase] at hgcm
  | gcmIv => exact absurd hphase hiv
  | gcmAad => exact .inl rfl
  | gcmText => exact .inr rfl
  | gcmDone => exact absurd hphase hdone

/-- BLOCK of GCM moves to GCM_TEXT, BLOCK of another mode stays in TEXT. -/
theorem blockEffect_phase (h : Inv s) (hchecks : firstFailure (blockChecks nb s) = none) :
    (blockEffect nb s).phase = if s.phase = .gcmAad ∨ s.phase = .gcmText then .gcmText else s.phase := by
  by_cases hmode : s.cfgMode = some .gcm
  · rw [if_pos (phase_of_blockChecks_gcm h hmode hchecks)]
    unfold blockEffect blockBody
    cases hdir : s.cfgDir <;> rw [hmode] <;> rfl
  · have htext := h.text_of_open (open_of_blockChecks hchecks) hmode
    rw [blockEffect_frame_of_not_gcm nb hmode]
    simp [htext]

/-- A command that runs moves PHASE and PCL as the table of transitions says (40_control.md R167). -/
theorem effectOf_phase (h : Inv s) (hchecks : firstFailure (checksOf i s) = none) :
    ((effectOf i s).phase, (effectOf i s).pcl) = phaseAfter i s.phase s.pcl := by
  cases i with
  | start mode dir leg nb tlen =>
    obtain ⟨m, hmode⟩ := mode_of_startChecks hchecks
    have hgcm : m = .gcm ↔ mode.toNat = 5 := by
      rw [← Option.some_inj, ← hmode, modeOf_eq_gcm, BitVec.toNat_eq]
      rfl
    rw [effectOf, startEffect_latches hmode]
    simp [phaseAfter, hgcm]
  | block nb =>
    rw [phaseAfter, ← blockEffect_phase h hchecks]
    rfl
  | gcmIv nb => exact congrArg (·, isPartial nb) (open_of_gcmIvChecks hchecks).2
  | gcmAad nb => exact congrArg (·, isPartial nb) (open_of_gcmAadChecks hchecks).2
  | _ => rfl

/-- A stream command that runs leaves a stream open. -/
theorem effectOf_open (h : Inv s) (hi : i.opcode.isStream = true) (hchecks : firstFailure (checksOf i s) = none) :
    (effectOf i s).phase ≠ .idle := by
  have hphase : (effectOf i s).phase = (phaseAfter i s.phase s.pcl).1 := congrArg Prod.fst (effectOf_phase h hchecks)
  rw [hphase]
  cases i with
  | start =>
    simp only [phaseAfter]
    split <;> nofun
  | block =>
    simp only [phaseAfter]
    split
    · nofun
    · exact open_of_blockChecks hchecks
  | gcmIv | gcmIvend | gcmAad | gcmFinish => simp [phaseAfter]
  | nop | ghLoadh | ghClear | ghSets | ghStep | ghMulref | ghMultbl | ghMulx | utInc32 => cases hi

end

/-- Settles O27: an error ends the stream of a stream command only, and an effect moves as the table says. -/
theorem phaseMovesFollowTheTable : Obligations.PhaseMovesFollowTheTable := by
  intro i s t hinv h
  obtain ⟨e, -, rfl⟩ | ⟨hchecks, rfl⟩ := exec_cases h
  · refine .inr ⟨⟨e, raiseError_eq_errorState _ e s⟩, ?_⟩
    cases hi : i.opcode.isStream <;> rfl
  · exact .inl (effectOf_phase hinv hchecks)

/-- Settles O21: the cell's error is the first failure; where there is none, a partial block of CBC fails, and any other
command runs. -/
theorem acceptanceMatrixDecidesStreamCommands : Obligations.AcceptanceMatrixDecidesStreamCommands := by
  intro i s hinv hwf hi hstart
  have hfits := modeFitsPhase_of_inv hinv
  split
  · next e hcell => exact exec_of_acceptance_error hfits hwf hi hstart hcell
  · next hcell =>
    have hfirst : firstFailure (checksOf i s) = partialBlockError i s := by
      rw [firstFailure_checksOf hfits hwf hi hstart, hcell, Option.none_or]
    rw [exec_eq_commit_effectOf]
    refine ⟨fun nb hmode hblock hnb => ?partialBlock, fun hwhole => ?runs⟩
    case partialBlock =>
      subst hblock
      exact commit_of_failure (hfirst.trans (if_pos ⟨hmode, hnb⟩))
    case runs =>
      have hnone : partialBlockError i s = none := by
        cases i with
        | block nb => exact if_neg fun ⟨hmode, hnb⟩ => hnb (hwhole nb hmode rfl)
        | _ => rfl
      have hchecks := hfirst.trans hnone
      exact ⟨_, commit_of_success hchecks, (congrArg State.err (effectOf_frame i s) :), effectOf_open hinv hi hchecks⟩

end Sys2Proof.Machine
end

section
/-! PROOF. NOP and START: the one error of NOP's words, and the whole effect of START in each mode. -/

namespace Sys2Proof.Machine

open Safety

/-- Settles O23: NOP has no check and no effect, and uses no field, so the one word that decodes to it is 0. -/
theorem nopOnlyCompletes : Obligations.NopOnlyCompletes := by
  refine ⟨fun s => rfl, fun w s hop hne => ?_⟩
  have hnop : opcodeOf (opField w) = some .nop := congrArg opcodeOf hop
  refine commitWord_of_not_fieldsLegal hnop fun hlegal => hne ?_
  have hword : packPlain .nop = w := packPlain_of_fieldsLegal (bits_of_opcodeOf hnop) nofun rfl hlegal
  exact hword.symm

/-- Settles O22: the checks fail by the lines of the rule, and a START that runs latches the configuration of its word. -/
theorem startChecksInOrder : Obligations.StartChecksInOrder := by
  intro mode dir leg nb tlen s
  split
  · next e herror => exact exec_start_of_error herror
  · next hnone =>
    obtain ⟨m, hmode⟩ := mode_of_startChecks (firstFailure_startChecks.trans hnone)
    have hbits : modeBits (some m) = mode := (modeOf_eq_some.mp hmode).symm
    have hgcm : m = .gcm ↔ mode = 5 := by rw [← Option.some_inj, ← hmode, modeOf_eq_gcm]
    refine ⟨_, exec_start_of_accepted hnone, ?_⟩
    rw [startEffect_latches hmode, startEffect_frame]
    simp [hbits, hgcm, effectiveTlen]

/-- Settles O24: NB and TLEN are 0, and LEG = 1 finds CHV = 1, so no line of START's rule applies. -/
theorem startCbcLoadsOrKeepsChain : Obligations.StartCbcLoadsOrKeepsChain := by
  intro dir leg s hchv
  have hnone : startError 1 dir leg 0 0 s.chv = none := by simpa [startError] using hchv
  exact exec_start_of_accepted hnone

/-- Settles O25: the three modes differ in the latched mode only. -/
theorem startKeystreamLoadsChain : Obligations.StartKeystreamLoadsChain := by
  intro mode m dir s hmode
  have hnone : startError mode dir false 0 0 s.chv = none := by
    obtain ⟨rfl, -⟩ | ⟨rfl, -⟩ | ⟨rfl, -⟩ := hmode <;> rfl
  rw [exec_start_of_accepted hnone]
  obtain ⟨rfl, rfl⟩ | ⟨rfl, rfl⟩ | ⟨rfl, rfl⟩ := hmode <;> rfl

/-- Settles O26: no line of START's rule applies, NB being at most 16 with a legal tag length; the stream begins in phase
GCM_IV, whose cells of the acceptance matrix show NO_IV for the data commands. -/
theorem startGcmDerivesSubkeyAndTable : Obligations.StartGcmDerivesSubkeyAndTable := by
  intro dir nb tlen s htlen henc hdec
  have hnone : startError 5 dir false nb tlen s.chv = none := by
    cases dir with
    | enc => simpa [startError, henc rfl, or_iff_not_imp_left] using htlen
    | dec =>
      have hlen := hdec rfl
      have hmax := (effectiveTlen_range (tlenLegal_iff.mpr htlen)).2.2
      rw [toNat_effectiveTlen, ← hlen] at hmax
      have hnb : nb.toNat ≤ 16 := by omega
      simpa [startError, hlen, hnb, or_iff_not_imp_left] using htlen
  have hexec := exec_start_of_accepted hnone
  have hfits : ModeFitsPhase (succeed (startEffect 5 dir false nb tlen s)) := fun _ => ⟨fun _ => rfl, fun _ => rfl⟩
  have hnoIv {i : Instr} (hwf : i.wf = true) (hi : i.opcode.isStream = true) (hstart : i.opcode ≠ .start)
      (hcell : acceptance i.opcode .gcmIv false = some .noIv) :=
    exec_of_acceptance_error hfits hwf hi hstart hcell
  exact ⟨_, hexec, rfl, fun p n hp hn => tableAt_buildTable _ p n hp hn,
    fun k hk => ⟨hnoIv hk rfl nofun rfl, hnoIv hk rfl nofun rfl⟩, hnoIv rfl rfl nofun rfl⟩

end Sys2Proof.Machine
end

section
/-! PROOF. BLOCK outside GCM: when it runs, and its whole effect in CBC, CFB, OFB and CTR. -/

namespace Sys2Proof.Machine

/-! ### The effect in each mode -/

section

variable {nb : BitVec 5} {s : State}

theorem blockEffect_cbc_enc (hmode : s.cfgMode = some .cbc) (hdir : s.cfgDir = .enc) :
    blockEffect nb s = { cbcEncrypt s with pcl := isPartial nb } := by
  simp only [blockEffect, blockBody, hmode, hdir]

theorem blockEffect_cbc_dec (hmode : s.cfgMode = some .cbc) (hdir : s.cfgDir = .dec) :
    blockEffect nb s = { cbcDecrypt s with pcl := isPartial nb } := by
  simp only [blockEffect, blockBody, hmode, hdir]

theorem blockEffect_cfb_enc (hmode : s.cfgMode = some .cfb) (hdir : s.cfgDir = .enc) :
    blockEffect nb s = { cfbEncrypt nb s with pcl := isPartial nb } := by
  simp only [blockEffect, blockBody, hmode, hdir]

theorem blockEffect_cfb_dec (hmode : s.cfgMode = some .cfb) (hdir : s.cfgDir = .dec) :
    blockEffect nb s = { cfbDecrypt nb s with pcl := isPartial nb } := by
  simp only [blockEffect, blockBody, hmode, hdir]

theorem blockEffect_ofb (hmode : s.cfgMode = some .ofb) :
    blockEffect nb s = { ofbBlock nb s with pcl := isPartial nb } := by
  simp only [blockEffect, blockBody, hmode]

theorem blockEffect_ctr (hmode : s.cfgMode = some .ctr) :
    blockEffect nb s = { ctrBlock nb s with pcl := isPartial nb } := by
  simp only [blockEffect, blockBody, hmode]

/-! ### When BLOCK runs -/

theorem nbLegal_of_range (hpos : 1 ≤ nb.toNat) (hle : nb.toNat ≤ 16) : nbLegal nb = true := by
  simp [nbLegal, hpos, hle]

/-- BLOCK runs in an open stream outside GCM whose last block was whole, in CBC on whole blocks only (40_control.md
R166). -/
theorem exec_block_of_open (hphase : s.phase ≠ .idle) (hmode : s.cfgMode ≠ some .gcm) (hpcl : s.pcl = false)
    (hnb : nbLegal nb = true) (hcbc : s.cfgMode = some .cbc → nb = 16) :
    exec (.block nb) s = .next (succeed (blockEffect nb s)) := by
  have hchecks : firstFailure (blockChecks nb s) = none := by
    simpa [blockChecks, nbCheck, hnb, hphase, hmode, hpcl] using hcbc
  exact commit_of_success hchecks

end

/-- Settles O30: NB = 16 passes CBC's own check, and the body is that of the direction. -/
theorem cbcBlocksChainCiphertext : Obligations.CbcBlocksChainCiphertext := by
  intro s hphase hmode hpcl
  have hexec := exec_block_of_open hphase (by simp [hmode]) hpcl rfl fun _ => rfl
  refine ⟨fun hdir => ?_, fun hdir => ?_⟩
  · rw [hexec, blockEffect_cbc_enc hmode hdir]
    rfl
  · rw [hexec, blockEffect_cbc_dec hmode hdir]
    rfl

/-- Settles O31: every legal byte count passes the checks, and the two bodies differ in the ciphertext fed back. -/
theorem cfbBlocksFeedBackCiphertext : Obligations.CfbBlocksFeedBackCiphertext := by
  intro nb s hpos hle hphase hmode hpcl
  have hexec := exec_block_of_open hphase (by simp [hmode]) hpcl (nbLegal_of_range hpos hle) (by simp [hmode])
  refine ⟨fun hdir => ?_, fun hdir => ?_⟩
  · rw [hexec, blockEffect_cfb_enc hmode hdir]
    rfl
  · rw [hexec, blockEffect_cfb_dec hmode hdir]
    rfl

/-- Settles O32: the bodies of OFB and CTR do not read CFG.DIR. -/
theorem ofbAndCtrBlocksIgnoreDirection : Obligations.OfbAndCtrBlocksIgnoreDirection := by
  intro nb s hpos hle hphase hpcl
  have hnb := nbLegal_of_range hpos hle
  refine ⟨fun hmode => ?_, fun hmode => ?_⟩
  · rw [exec_block_of_open hphase (by simp [hmode]) hpcl hnb (by simp [hmode]), blockEffect_ofb hmode]
    rfl
  · rw [exec_block_of_open hphase (by simp [hmode]) hpcl hnb (by simp [hmode]), blockEffect_ctr hmode]
    rfl

end Sys2Proof.Machine
end

section
/-! PROOF. Streams of CBC, CFB, OFB and CTR: CHAIN after a CBC stream, streams in legal chunks, the counter of CTR, the
round trip of the keystream modes, and the streams in which CFG.DIR plays no part. -/

namespace Sys2Proof.Machine

open Safety

/-! ### CHAIN after a CBC stream -/

section

variable {s : State}

/-- After an encrypting CBC stream CHAIN holds the last block put out (41_chaining.md R192). -/
theorem chain_feed_cbcEncrypt (xs : List Block) (h : textReady .cbc s) (hdir : s.cfgDir = .enc) :
    (feed .block (xs.map fun x => (x, 16)) s).chain = (cbcCiphertext s.chain xs).getLastD s.chain := by
  induction xs generalizing s with
  | nil => rfl
  | cons x rest ih =>
    obtain ⟨hready, hdir'⟩ := textReady_runOn_block (m := .cbc) (x := x) nofun h
    rw [List.map_cons, feed, ih hready (hdir'.trans hdir), runOn_cbcEncrypt x h hdir, cbcCiphertext, List.getLastD_cons]
    rfl

/-- After a decrypting CBC stream CHAIN holds the last block taken in (41_chaining.md R192). -/
theorem chain_feed_cbcDecrypt (ys : List Block) (h : textReady .cbc s) (hdir : s.cfgDir = .dec) :
    (feed .block (ys.map fun y => (y, 16)) s).chain = ys.getLastD s.chain := by
  induction ys generalizing s with
  | nil => rfl
  | cons y rest ih =>
    obtain ⟨hready, hdir'⟩ := textReady_runOn_block (m := .cbc) (x := y) nofun h
    rw [List.map_cons, feed, ih hready (hdir'.trans hdir), runOn_cbcDecrypt y h hdir, List.getLastD_cons]
    rfl

end

/-- Settles O33: the outputs and CHAIN, by induction on the blocks in each direction. -/
theorem cbcStreamsChainEveryBlock : Obligations.CbcStreamsChainEveryBlock := by
  intro xs s h
  exact ⟨fun hdir => ⟨outputs_cbcEncrypt xs h hdir, chain_feed_cbcEncrypt xs h hdir⟩,
    fun hdir => ⟨outputs_cbcDecrypt xs h hdir, chain_feed_cbcDecrypt xs h hdir⟩⟩

/-! ### What BLOCK leaves of the configuration -/

theorem runOn_block_config {nb : BitVec 5} (x : Block) (s : State) :
    (runOn x (.block nb) s).cfgMode = s.cfgMode ∧ (runOn x (.block nb) s).cfgDir = s.cfgDir := by
  obtain ⟨t, h⟩ := exec_next (.block nb) { s with din := x }
  obtain ⟨_, hmode, hdir, _⟩ := exec_config h nofun
  rw [runOn, h]
  exact ⟨hmode, hdir⟩

/-! ### Legal chunks -/

section

variable {m : Mode} {nb : BitVec 5} {x : Block} {rest : List (Block × BitVec 5)} {s : State}

/-- The first of a list of legal chunks: only the last may be partial. -/
theorem chunksLegal_cons (h : chunksLegal ((x, nb) :: rest) = true) :
    nbLegal nb = true ∧ chunksLegal rest = true ∧ (rest ≠ [] → nb = 16) := by
  cases rest with
  | nil => exact ⟨h, rfl, fun hne => absurd rfl hne⟩
  | cons next tail =>
    obtain ⟨rfl, htail⟩ : nb = 16 ∧ chunksLegal (next :: tail) = true := by simpa [chunksLegal] using h
    exact ⟨rfl, htail, fun _ => rfl⟩

/-- While chunks are left the stream takes the next: the one before was whole. -/
theorem textReady_of_more (hgcm : m ≠ .gcm) (h : textReady m s) (hwhole : rest ≠ [] → nb = 16) :
    rest ≠ [] → textReady m (runOn x (.block nb) s) := by
  intro hrest
  rw [hwhole hrest]
  exact (textReady_runOn_block hgcm h).1

end

/-! ### CTR -/

theorem counterAt_zero (b : Block) : counterAt b 0 = b := by
  rw [counterAt, BitVec.add_zero, BitVec.extractLsb'_append_extractLsb'_eq_extractLsb' (by rfl)]
  exact BitVec.extractLsb'_eq_self

/-- The counter block i steps after the next one is the one i + 1 steps on. -/
theorem counterAt_inc32 (b : Block) (i : Nat) : counterAt (inc32 b) i = counterAt b (i + 1) := by
  have hhigh : (inc32 b).extractLsb' 32 96 = b.extractLsb' 32 96 := by
    rw [inc32, extract_append_high _ _ 0 96]
    ext i hi
    simp
  have hlow : (inc32 b).extractLsb' 0 32 = b.extractLsb' 0 32 + 1 := extract_append_low _ _
  rw [counterAt, counterAt, hhigh, hlow, Nat.add_comm i 1, BitVec.ofNat_add, BitVec.add_assoc]
  rfl

/-- The texts of counter mode, block by block: the rest starts at the next counter block. -/
theorem counterTexts_cons (b x : Block) (nb : BitVec 5) (rest : List (Block × BitVec 5)) :
    counterTexts b ((x, nb) :: rest)
      = maskNb (x ^^^ Config.cipherE b) nb :: counterTexts (inc32 b) rest := by
  simp [counterTexts, List.zipIdx_cons, List.zipIdx_succ, counterAt_zero, counterAt_inc32, Function.comp_def]

theorem runOn_ctr {nb : BitVec 5} {s : State} (x : Block) (h : textReady .ctr s) (hnb : nbLegal nb = true) :
    runOn x (.block nb) s = succeed { ctrBlock nb { s with din := x } with pcl := isPartial nb } := by
  have ⟨_, hmode, _⟩ := h
  rw [runOn_block h hnb nofun, blockEffect_ctr (s := { s with din := x }) hmode]

/-- A CTR stream adds the cipher of one counter block after the other, and CHAIN holds the next. -/
theorem outputs_and_chain_ctr (xs : List (Block × BitVec 5)) {s : State} (hready : xs ≠ [] → textReady .ctr s)
    (hlegal : chunksLegal xs = true) :
    outputs .block xs s = counterTexts s.chain xs ∧ (feed .block xs s).chain = counterAt s.chain xs.length := by
  induction xs generalizing s with
  | nil => exact ⟨rfl, (counterAt_zero s.chain).symm⟩
  | cons c rest ih =>
    obtain ⟨x, nb⟩ := c
    obtain ⟨hnb, hrest, hwhole⟩ := chunksLegal_cons hlegal
    have h := hready nofun
    obtain ⟨houtputs, hchain⟩ := ih (textReady_of_more nofun h hwhole) hrest
    rw [outputs, feed, houtputs, hchain, runOn_ctr x h hnb, counterTexts_cons, List.length_cons, ← counterAt_inc32]
    exact ⟨rfl, rfl⟩

/-- Settles O34: by induction on the chunks, each step taking the counter block one on. -/
theorem ctrKeystreamFollowsCounter : Obligations.CtrKeystreamFollowsCounter :=
  fun xs _ hready hlegal => outputs_and_chain_ctr xs (fun _ => hready) hlegal

/-! ### The round trip of the keystream modes -/

section

variable {m : Mode} {nb : BitVec 5} {s t : State}

/-- The same keystream added twice falls out, on the bytes that the mask keeps. -/
theorem keystreamText_keystreamText (hchain : t.chain = s.chain) (hdin : t.din = keystreamText nb s) :
    keystreamText nb t = maskNb s.din nb := by
  rw [keystreamText_eq, hchain, hdin, keystreamText]
  calc maskNb (maskNb (s.din ^^^ Config.cipherE s.chain) nb) nb ^^^ maskNb (Config.cipherE s.chain) nb
      = maskNb (s.din ^^^ Config.cipherE s.chain) nb ^^^ maskNb (Config.cipherE s.chain) nb :=
        congrArg (· ^^^ maskNb (Config.cipherE s.chain) nb) (mask_mask _ _)
    _ = maskNb (s.din ^^^ Config.cipherE s.chain ^^^ Config.cipherE s.chain) nb := (mask_xor _ _ _).symm
    _ = maskNb s.din nb := by rw [BitVec.xor_assoc, BitVec.xor_self, BitVec.xor_zero]

variable (hcbc : m ≠ .cbc) (hgcm : m ≠ .gcm)

include hcbc hgcm

theorem blockEffect_dout_keystream (hmode : s.cfgMode = some m) : (blockEffect nb s).dout = keystreamText nb s := by
  cases m with
  | cbc => exact absurd rfl hcbc
  | cfb =>
    cases hdir : s.cfgDir with
    | enc => rw [blockEffect_cfb_enc hmode hdir, cfbEncrypt]
    | dec => rw [blockEffect_cfb_dec hmode hdir, cfbDecrypt]
  | ofb => rw [blockEffect_ofb hmode, ofbBlock]
  | ctr => rw [blockEffect_ctr hmode, ctrBlock]
  | gcm => exact absurd rfl hgcm

/-- A decrypting BLOCK on the text of an encrypting one, from the same chaining block, gives back the input and feeds back
the same block: in CFB the ciphertext, put out or taken in, and in OFB and CTR one that does not depend on the text. -/
theorem blockEffect_roundTrip (hs : s.cfgMode = some m) (ht : t.cfgMode = some m) (hsdir : s.cfgDir = .enc)
    (htdir : t.cfgDir = .dec) (hchain : t.chain = s.chain) (hdin : t.din = (blockEffect nb s).dout) :
    (blockEffect nb t).dout = maskNb s.din nb ∧ (blockEffect nb t).chain = (blockEffect nb s).chain := by
  rw [blockEffect_dout_keystream hcbc hgcm hs] at hdin
  constructor
  · rw [blockEffect_dout_keystream hcbc hgcm ht]
    exact keystreamText_keystreamText hchain hdin
  · cases m with
    | cbc => exact absurd rfl hcbc
    | cfb =>
      have hciphertext : maskNb t.din nb = keystreamText nb s := by rw [hdin]; exact mask_mask _ _
      rw [blockEffect_cfb_dec ht htdir, blockEffect_cfb_enc hs hsdir]
      exact hciphertext
    | ofb =>
      rw [blockEffect_ofb ht, blockEffect_ofb hs]
      exact congrArg Config.cipherE hchain
    | ctr =>
      rw [blockEffect_ctr ht, blockEffect_ctr hs]
      exact congrArg inc32 hchain
    | gcm => exact absurd rfl hgcm

/-- The same of two streams, the one given what the other puts out. -/
theorem runOn_roundTrip {x y : Block} (hs : textReady m s) (ht : textReady m t) (hsdir : s.cfgDir = .enc)
    (htdir : t.cfgDir = .dec) (hchain : t.chain = s.chain) (hnb : nbLegal nb = true)
    (hy : y = (runOn x (.block nb) s).dout) :
    (runOn y (.block nb) t).dout = maskNb x nb
    ∧ (runOn y (.block nb) t).chain = (runOn x (.block nb) s).chain := by
  have ⟨_, hsmode, _⟩ := hs
  have ⟨_, htmode, _⟩ := ht
  have hwhole : m = .cbc → nb = 16 := (absurd · hcbc)
  rw [runOn_block hs hnb hwhole] at hy ⊢
  rw [runOn_block ht hnb hwhole]
  exact blockEffect_roundTrip (s := { s with din := x }) (t := { t with din := y }) hcbc hgcm hsmode htmode hsdir htdir
    hchain hy

/-- Two streams of a keystream mode from one chaining block, the one decrypting what the other puts out. -/
theorem outputs_roundTrip (xs : List (Block × BitVec 5)) (hs : xs ≠ [] → textReady m s)
    (ht : xs ≠ [] → textReady m t) (hsdir : s.cfgDir = .enc) (htdir : t.cfgDir = .dec) (hchain : t.chain = s.chain)
    (hlegal : chunksLegal xs = true) :
    outputs .block (withCounts (outputs .block xs s) xs) t = padded xs := by
  induction xs generalizing s t with
  | nil => rfl
  | cons c rest ih =>
    obtain ⟨x, nb⟩ := c
    obtain ⟨hnb, hrest, hwhole⟩ := chunksLegal_cons hlegal
    obtain ⟨hdout, hnext⟩ := runOn_roundTrip hcbc hgcm (hs nofun) (ht nofun) hsdir htdir hchain hnb rfl
    have htail := ih (textReady_of_more hgcm (hs nofun) hwhole) (textReady_of_more hgcm (ht nofun) hwhole)
      ((runOn_block_config x s).2.trans hsdir) ((runOn_block_config _ t).2.trans htdir) hnext hrest
    exact congrArg₂ List.cons hdout htail

end

/-- Settles O35: by induction on the chunks, the two streams keeping one chaining block. -/
theorem keystreamModesRoundTrip : Obligations.KeystreamModesRoundTrip := by
  intro m xs s t hm hs ht hsdir htdir hchain hlegal
  have hcbc : m ≠ .cbc := by rintro rfl; simp at hm
  have hgcm : m ≠ .gcm := by rintro rfl; simp at hm
  exact outputs_roundTrip hcbc hgcm xs (fun _ => hs) (fun _ => ht) hsdir htdir hchain hlegal

/-! ### OFB and CTR do not read the direction -/

section

variable {nb : BitVec 5} {s : State} (d : Dir)

theorem blockEffect_withDir (hmode : s.cfgMode = some .ofb ∨ s.cfgMode = some .ctr) :
    blockEffect nb { s with cfgDir := d } = { blockEffect nb s with cfgDir := d } := by
  obtain hmode | hmode := hmode
  · rw [blockEffect_ofb (s := { s with cfgDir := d }) hmode, blockEffect_ofb hmode]
    rfl
  · rw [blockEffect_ctr (s := { s with cfgDir := d }) hmode, blockEffect_ctr hmode]
    rfl

/-- The checks of BLOCK do not read CFG.DIR, so it fails or runs alike in both directions. -/
theorem runOn_withDir (x : Block) (hmode : s.cfgMode = some .ofb ∨ s.cfgMode = some .ctr) :
    runOn x (.block nb) { s with cfgDir := d } = { runOn x (.block nb) s with cfgDir := d } := by
  rw [runOn, runOn, exec_block, exec_block]
  cases hchecks : firstFailure (blockChecks nb { s with din := x }) with
  | some e =>
    rw [commit_of_failure hchecks, commit_of_failure (checks := blockChecks nb { s with cfgDir := d, din := x }) hchecks]
    rfl
  | none =>
    rw [commit_of_success hchecks, commit_of_success (checks := blockChecks nb { s with cfgDir := d, din := x }) hchecks,
      blockEffect_withDir (s := { s with din := x }) d hmode]
    rfl

theorem feed_withDir (xs : List (Block × BitVec 5)) (hmode : s.cfgMode = some .ofb ∨ s.cfgMode = some .ctr) :
    feed .block xs { s with cfgDir := d } = { feed .block xs s with cfgDir := d } := by
  induction xs generalizing s with
  | nil => rfl
  | cons c rest ih => rw [feed, runOn_withDir d _ hmode, ih (by rwa [(runOn_block_config _ s).1]), feed]

theorem outputs_withDir (xs : List (Block × BitVec 5)) (hmode : s.cfgMode = some .ofb ∨ s.cfgMode = some .ctr) :
    outputs .block xs { s with cfgDir := d } = outputs .block xs s := by
  induction xs generalizing s with
  | nil => rfl
  | cons c rest ih => rw [outputs, runOn_withDir d _ hmode, ih (by rwa [(runOn_block_config _ s).1]), outputs]

end

/-- Settles O37: setting CFG.DIR before a stream or after it comes to the same, and reaches no output. -/
theorem directionDoesNotMatterInOfbAndCtr : Obligations.DirectionDoesNotMatterInOfbAndCtr := by
  intro xs s hmode
  refine ⟨?_, ?_⟩
  · rw [outputs_withDir .dec xs hmode, outputs_withDir .enc xs hmode]
  · rw [feed_withDir .dec xs hmode, feed_withDir .enc xs hmode]

end Sys2Proof.Machine
end

section
/-! PROOF. The table law: the reference product adds over the sum of its first factor's nibbles, so the product by the
table of a subkey is the reference product with it. -/

namespace Sys2Proof.Machine

/-! ### The reference product adds in its first factor -/

/-- One round on a sum of first factors is the sum of the rounds: only Z reads the first factor (43_galois.md R261). -/
theorem gmulRound_xor (x y z w v : Block) (i : Nat) :
    gmulRound (x ^^^ y) (z ^^^ w, v) i = ((gmulRound x (z, v) i).1 ^^^ (gmulRound y (w, v) i).1, mulx v) := by
  rw [gmulRound, gmulRound, gmulRound, BitVec.getLsbD_xor]
  cases hx : x.getLsbD (127 - i) <;> cases hy : y.getLsbD (127 - i) <;>
    simp [BitVec.xor_assoc, BitVec.xor_comm w v]

theorem foldl_gmulRound_xor (x y : Block) (is : List Nat) (z w v : Block) :
    (is.foldl (gmulRound (x ^^^ y)) (z ^^^ w, v)).1
      = (is.foldl (gmulRound x) (z, v)).1 ^^^ (is.foldl (gmulRound y) (w, v)).1 := by
  induction is generalizing z w v with
  | nil => rfl
  | cons i rest ih => rw [List.foldl_cons, gmulRound_xor, ih]; rfl

theorem gmulRef_xor_left (x y h : Block) : gmulRef (x ^^^ y) h = gmulRef x h ^^^ gmulRef y h :=
  foldl_gmulRound_xor x y (List.range 128) 0 0 h

theorem gmulRef_zero_left (h : Block) : gmulRef 0 h = 0 := by
  have hsum : gmulRef 0 h = gmulRef 0 h ^^^ gmulRef 0 h := gmulRef_xor_left 0 0 h
  rwa [BitVec.xor_self] at hsum

/-- The sum of the products of some blocks is the product of their sum. -/
theorem foldl_gmulRef_xor (f : Nat → Block) (h : Block) (ps : List Nat) (z : Block) :
    ps.foldl (fun a p => a ^^^ gmulRef (f p) h) (gmulRef z h) = gmulRef (ps.foldl (fun a p => a ^^^ f p) z) h := by
  induction ps generalizing z with
  | nil => rfl
  | cons p rest ih => rw [List.foldl_cons, ← gmulRef_xor_left, ih, List.foldl_cons]

/-! ### A block is the sum of its nibbles -/

/-- The nibble of a block at a position, in its place (43_galois.md R262, R264). -/
def placedNib (x : Block) (p : Nat) : Block :=
  BitVec.ofNat 128 (nib x p).toNat <<< (124 - 4 * p)

theorem getLsbD_placedNib (x : Block) {p j : Nat} (hp : p < 32) :
    (placedNib x p).getLsbD j = (x.getLsbD j && decide (124 - 4 * p ≤ j ∧ j < 128 - 4 * p)) := by
  rw [placedNib, nib, BitVec.ofNat_toNat, BitVec.getLsbD_shiftLeft, BitVec.getLsbD_setWidth, BitVec.getLsbD_extractLsb']
  by_cases hj : 124 - 4 * p ≤ j ∧ j < 128 - 4 * p
  · have hplace : 124 - 4 * p + (j - (124 - 4 * p)) = j := by omega
    have hin : j < 128 ∧ ¬ j < 124 - 4 * p ∧ j - (124 - 4 * p) < 128 ∧ j - (124 - 4 * p) < 4 := by omega
    simp [hj, hin, hplace]
  · have hout : j < 124 - 4 * p ∨ ¬ j - (124 - 4 * p) < 4 := by omega
    rw [decide_eq_false hj]
    rcases hout with hout | hout <;> simp [hout]

/-- The first n nibbles of a block add up to its leading 4n bits. -/
theorem getLsbD_foldl_placedNib (x : Block) (j : Nat) {n : Nat} (hn : n ≤ 32) :
    ((List.range n).foldl (fun a p => a ^^^ placedNib x p) 0).getLsbD j
      = (x.getLsbD j && decide (128 - 4 * n ≤ j)) := by
  induction n with
  | zero =>
    by_cases hj : j < 128
    · simp [hj]
    · simp [BitVec.getLsbD_of_ge x j (by omega)]
  | succ n ih =>
    rw [List.range_succ, List.foldl_append, List.foldl_cons, List.foldl_nil, BitVec.getLsbD_xor, ih (by omega),
      getLsbD_placedNib x (by omega)]
    by_cases hold : 128 - 4 * n ≤ j
    · have hnew : 128 - 4 * (n + 1) ≤ j ∧ ¬ j < 128 - 4 * n := by omega
      simp [hold, hnew]
    · have hnew : 124 - 4 * n ≤ j ↔ 128 - 4 * (n + 1) ≤ j := by omega
      simp [hold, hnew, Nat.lt_of_not_le hold]

theorem foldl_placedNib (x : Block) : (List.range 32).foldl (fun a p => a ^^^ placedNib x p) 0 = x := by
  apply BitVec.eq_of_getLsbD_eq
  intro j _
  rw [getLsbD_foldl_placedNib x j (Nat.le_refl 32)]
  simp

/-! ### The table product -/

/-- The entry that the table product takes at a position is the reference product of the nibble there. -/
theorem tableAt_buildTable_nib (h x : Block) {p : Nat} (hp : p < 32) :
    tableAt (buildTable h) (flatIndex p (nib x p)) = gmulRef (placedNib x p) h :=
  tableAt_buildTable h p (nib x p).toNat hp (nib x p).isLt

/-- The product by the table of a subkey is the reference product with the subkey (43_galois.md R267). -/
theorem tmul_buildTable (h x : Block) : tmul (buildTable h) x = gmulRef x h := by
  have hentries : tmul (buildTable h) x = (List.range 32).foldl (fun a p => a ^^^ gmulRef (placedNib x p) h) 0 := by
    refine List.foldl_ext _ _ _ fun a p hp => ?_
    rw [tableAt_buildTable_nib h x (List.mem_range.mp hp)]
  have hsum := foldl_gmulRef_xor (placedNib x) h (List.range 32) 0
  rw [foldl_placedNib, gmulRef_zero_left] at hsum
  exact hentries.trans hsum

end Sys2Proof.Machine
end

section
/-! PROOF. The GCM commands: when each runs, its whole effect, and what the tag keeps and compares. -/

namespace Sys2Proof.Machine

open Safety

/-! ### When a GCM command runs -/

/-- The state takes a chunk in phase p of a GCM stream: of the IV in GCM_IV, of the AAD in GCM_AAD (42_gcm.md R221,
R223). -/
def GcmChunkReady (p : Phase) (s : State) : Prop :=
  s.phase = p ∧ s.cfgMode = some .gcm ∧ s.pcl = false

/-- The state takes a block of text in a GCM stream: the first after any AAD, a later one after a whole block (42_gcm.md
R224). -/
def GcmTextReady (s : State) : Prop :=
  s.cfgMode = some .gcm ∧ (s.phase = .gcmAad ∨ s.phase = .gcmText ∧ s.pcl = false)

section

variable {nb : BitVec 5} {s : State}

theorem firstFailure_gcmIv (h : GcmChunkReady .gcmIv s) (hnb : nbLegal nb = true) :
    firstFailure (checksOf (.gcmIv nb) s) = none := by
  obtain ⟨hphase, hmode, hpcl⟩ := h
  simp [checksOf, gcmStreamChecks, nbCheck, hnb, hphase, hmode, hpcl]

theorem firstFailure_gcmIvend (hphase : s.phase = .gcmIv) (hmode : s.cfgMode = some .gcm) :
    firstFailure (checksOf .gcmIvend s) = none := by
  simp [checksOf, gcmStreamChecks, hphase, hmode]

theorem firstFailure_gcmAad (h : GcmChunkReady .gcmAad s) (hnb : nbLegal nb = true) :
    firstFailure (checksOf (.gcmAad nb) s) = none := by
  obtain ⟨hphase, hmode, hpcl⟩ := h
  simp [checksOf, gcmStreamChecks, nbCheck, hnb, hphase, hmode, hpcl]

theorem firstFailure_gcmBlock (h : GcmTextReady s) (hnb : nbLegal nb = true) :
    firstFailure (checksOf (.block nb) s) = none := by
  obtain ⟨hmode, hphase | ⟨hphase, hpcl⟩⟩ := h
  · simp [checksOf, blockChecks, nbCheck, hnb, hmode, hphase]
  · simp [checksOf, blockChecks, nbCheck, hnb, hmode, hphase, hpcl]

theorem firstFailure_gcmFinish (hmode : s.cfgMode = some .gcm) (hphase : s.phase = .gcmAad ∨ s.phase = .gcmText) :
    firstFailure (checksOf .gcmFinish s) = none := by
  obtain hphase | hphase := hphase <;> simp [checksOf, gcmStreamChecks, hphase, hmode]

theorem exec_of_success {i : Instr} (h : firstFailure (checksOf i s) = none) :
    exec i s = .next (succeed (effectOf i s)) := by
  rw [exec_eq_commit_effectOf, commit_of_success h]

end

/-! ### The counts -/

theorem byteCount_eq_ofNat (nb : BitVec 5) : byteCount nb = BitVec.ofNat 64 nb.toNat :=
  (BitVec.ofNat_toNat 64 nb).symm

theorem bitCount_eq_ofNat (nb : BitVec 5) : bitCount nb = BitVec.ofNat 64 (8 * nb.toNat) := by
  rw [BitVec.ofNat_mul, BitVec.ofNat_toNat]
  rfl

/-- The bits of a byte count, modulo 2^64 (42_gcm.md R222, R226). -/
theorem mul_eight_eq_ofNat (n : BitVec 64) : n * 8 = BitVec.ofNat 64 (8 * n.toNat) := by
  rw [Nat.mul_comm, BitVec.ofNat_mul, BitVec.ofNat_toNat, BitVec.setWidth_eq]
  rfl

/-! ### The whole effect of each command -/

/-- Settles O39: GCM_IV runs on a legal chunk, and its byte count is NB. -/
theorem gcmIvFoldsOneChunk : Obligations.GcmIvFoldsOneChunk := by
  intro nb s hpos hle hphase hmode hpcl
  rw [exec_of_success (firstFailure_gcmIv ⟨hphase, hmode, hpcl⟩ (nbLegal_of_range hpos hle)), ← byteCount_eq_ofNat]
  rfl

/-- Settles O41: GCM_AAD runs on a legal chunk, and its bit count is 8 times NB. -/
theorem gcmAadFoldsOneChunk : Obligations.GcmAadFoldsOneChunk := by
  intro nb s hpos hle hphase hmode hpcl
  rw [exec_of_success (firstFailure_gcmAad ⟨hphase, hmode, hpcl⟩ (nbLegal_of_range hpos hle)), ← bitCount_eq_ofNat]
  rfl

/-- The pre-counter block by the length of the IV (42_gcm.md R222). -/
theorem preCounter_eq (s : State) :
    preCounter s = if s.ivlen.toNat = 12 then s.j0.extractLsb' 32 96 ++ 1#32
      else tmul s.table (s.accS ^^^ (0#64 ++ BitVec.ofNat 64 (8 * s.ivlen.toNat))) := by
  have hlength : s.ivlen = 12 ↔ s.ivlen.toNat = 12 := BitVec.toNat_eq
  rw [preCounter, ← mul_eight_eq_ofNat]
  simp only [hlength]
  rfl

/-- Settles O40: the checks of GCM_IVEND do not read PCL, and J0 is the pre-counter block. -/
theorem gcmIvendDerivesFirstCounter : Obligations.GcmIvendDerivesFirstCounter := by
  intro s hphase hmode
  exact ⟨preCounter s, preCounter_eq s, exec_of_success (firstFailure_gcmIvend hphase hmode)⟩

/-- The ciphertext block of a text block in either direction: put out on encryption, taken in on decryption (42_gcm.md R224,
R225). -/
def hashedBlock (d : Dir) (nb : BitVec 5) (s : State) : Block :=
  match d with
  | .enc => keystreamText nb s
  | .dec => maskNb s.din nb

/-- BLOCK in GCM differs between the directions in the block it hashes only. -/
theorem blockEffect_gcm {s : State} (nb : BitVec 5) (hmode : s.cfgMode = some .gcm) :
    blockEffect nb s = { gcmBlock nb (hashedBlock s.cfgDir nb s) s with pcl := isPartial nb } := by
  cases hdir : s.cfgDir <;> simp only [blockEffect, blockBody, hmode, hdir, gcmEncrypt, gcmDecrypt, hashedBlock]

/-- Settles O42: BLOCK runs on a legal byte count, and the mask of the ciphertext is the ciphertext block. -/
theorem gcmBlocksHashCiphertext : Obligations.GcmBlocksHashCiphertext := by
  intro nb s hpos hle hmode hphase
  have hhashed : mask (if s.cfgDir = .enc then s.din ^^^ Config.cipherE s.chain else s.din) nb.toNat
      = hashedBlock s.cfgDir nb s := by
    cases s.cfgDir <;> rfl
  have hexec := exec_of_success (firstFailure_gcmBlock ⟨hmode, hphase⟩ (nbLegal_of_range hpos hle))
  rw [hexec, effectOf, blockEffect_gcm nb hmode, hhashed, ← byteCount_eq_ofNat]
  rfl

theorem finalHash_eq (s : State) :
    finalHash s = tmul s.table (s.accS ^^^ (s.aadlen ++ BitVec.ofNat 64 (8 * s.clen.toNat))) := by
  rw [← mul_eight_eq_ofNat]
  rfl

/-- Settles O43: GCM_FINISH runs without a look at PCL, and forms the tag from the final hash. -/
theorem gcmFinishFormsTag : Obligations.GcmFinishFormsTag := by
  intro s hmode hphase
  exact ⟨finalHash s, computeTag s, finalHash_eq s, rfl, exec_of_success (firstFailure_gcmFinish hmode hphase)⟩

/-! ### The tag -/

/-- A bit of a masked block, counted from the most significant. -/
theorem getLsbD_mask_leading (v : Block) {n k : Nat} (hn : n ≤ 16) (hk : k < 128) :
    (mask v n).getLsbD (127 - k) = (decide (k < 8 * n) && v.getLsbD (127 - k)) := by
  have hbyte : 128 - 8 * n ≤ 127 - k ↔ k < 8 * n := by omega
  rw [getLsbD_mask v n _ hn, Bool.and_comm]
  simp only [hbyte]

/-- Two masked blocks are equal exactly when their leading bits are (42_gcm.md R228). -/
theorem mask_eq_mask_iff {v w : Block} {n : Nat} (hn : n ≤ 16) :
    mask v n = mask w n ↔ ∀ k, k < 8 * n → v.getLsbD (127 - k) = w.getLsbD (127 - k) := by
  constructor
  · intro h k hk
    have hbit := congrArg (BitVec.getLsbD · (127 - k)) h
    simpa [getLsbD_mask_leading _ hn (by omega : k < 128), hk] using hbit
  · intro h
    apply BitVec.eq_of_getLsbD_eq
    intro j hj
    obtain ⟨k, hk, rfl⟩ : ∃ k, k < 128 ∧ j = 127 - k := ⟨127 - j, by omega, by omega⟩
    rw [getLsbD_mask_leading v hn hk, getLsbD_mask_leading w hn hk]
    by_cases hkn : k < 8 * n
    · rw [h k hkn]
    · simp [hkn]

/-- Settles O44: the tag is a masked block of CFG.TLEN bits, and so is TAGEXP by the invariant. -/
theorem tagIsTruncatedAndComparedByItsLeadingBits : Obligations.TagIsTruncatedAndComparedByItsLeadingBits := by
  intro s t hinv hmode hphase hexec
  rw [exec_of_success (firstFailure_gcmFinish hmode hphase)] at hexec
  obtain rfl : succeed (gcmFinishEffect s) = t := by simpa [effectOf] using hexec
  obtain ⟨hwhole, -, hmax⟩ := hinv.tag_length hmode
  have hn : s.cfgTlen.toNat / 8 ≤ 16 := by omega
  have hbits : 8 * (s.cfgTlen.toNat / 8) = s.cfgTlen.toNat := by omega
  refine ⟨fun k hk => ?truncated, fun hdir => ⟨if_pos hdir, ?compared⟩, rfl, rfl⟩
  case truncated =>
    have hleading := getLsbD_mask_leading (finalHash s ^^^ Config.cipherE s.j0) hn hk
    rwa [hbits] at hleading
  case compared =>
    have hok : (succeed (gcmFinishEffect s)).tagok = (computeTag s == s.tagexp) := if_pos hdir
    have hleading := mask_eq_mask_iff (v := finalHash s ^^^ Config.cipherE s.j0) (w := s.tagexp) hn
    rw [hinv.tagexp_masked hmode, hbits] at hleading
    rw [hok, beq_iff_eq]
    exact hleading

end Sys2Proof.Machine
end

section
/-! PROOF. GCM streams: the chunks of the IV, of the AAD and of the text as one change of the state each, the J0 law, the
stream law, and decryption against encryption. -/

namespace Sys2Proof.Machine

open Safety

/-! ### GHASH, the table and the counts of a list of chunks -/

theorem ghash_append (h acc : Block) (xs ys : List Block) : ghash h acc (xs ++ ys) = ghash h (ghash h acc xs) ys :=
  List.foldl_append

theorem totalBytes_cons (x : Block) (nb : BitVec 5) (rest : List (Block × BitVec 5)) :
    totalBytes ((x, nb) :: rest) = nb.toNat + totalBytes rest :=
  List.sum_cons

theorem padded_cons (x : Block) (nb : BitVec 5) (rest : List (Block × BitVec 5)) :
    padded ((x, nb) :: rest) = maskNb x nb :: padded rest :=
  rfl

/-- In a phase of GCM the table is that of H (10_state.md R63). -/
theorem table_of_gcmPhase {s : State} (h : Inv s) (hphase : isGcmPhase s.phase = true) :
    s.table = buildTable s.subkeyH := by
  obtain ⟨-, htblv⟩ := h.gcm_phase hphase
  exact h.table_of_subkey htblv

/-- Folding a block into S and then the rest is folding them all, by the table law. -/
theorem ghash_cons {s : State} (htable : s.table = buildTable s.subkeyH) (x : Block) (xs : List Block) :
    ghash s.subkeyH s.accS (x :: xs) = ghash s.subkeyH (tmul s.table (s.accS ^^^ x)) xs := by
  rw [htable, tmul_buildTable]
  rfl

/-- Folding one more block into a hash, by the table law. -/
theorem tmul_ghash {s : State} (htable : s.table = buildTable s.subkeyH) (acc x : Block) (xs : List Block) :
    tmul s.table (ghash s.subkeyH acc xs ^^^ x) = ghash s.subkeyH acc (xs ++ [x]) := by
  rw [htable, tmul_buildTable, ghash_append]
  rfl

/-! ### The chunks of the IV and of the AAD -/

section

variable {p : Phase} {nb : BitVec 5} {x : Block} {rest : List (Block × BitVec 5)} {s t : State}

/-- While chunks are left the state takes the next: the one before was whole and has left the phase. -/
theorem gcmChunkReady_of_more (h : GcmChunkReady p s) (hphase : t.phase = s.phase) (hmode : t.cfgMode = s.cfgMode)
    (hpcl : t.pcl = isPartial nb) (hwhole : rest ≠ [] → nb = 16) : rest ≠ [] → GcmChunkReady p t := by
  intro hrest
  obtain ⟨hp, hgcm, -⟩ := h
  exact ⟨hphase.trans hp, hmode.trans hgcm, by rw [hpcl, hwhole hrest]; rfl⟩

theorem runOn_gcmIv (h : GcmChunkReady .gcmIv s) (hnb : nbLegal nb = true) :
    runOn x (.gcmIv nb) s = succeed (gcmIvEffect nb { s with din := x }) :=
  runOn_of_success (firstFailure_gcmIv (s := { s with din := x }) h hnb)

theorem runOn_gcmAad (h : GcmChunkReady .gcmAad s) (hnb : nbLegal nb = true) :
    runOn x (.gcmAad nb) s = succeed (gcmAadEffect nb { s with din := x }) :=
  runOn_of_success (firstFailure_gcmAad (s := { s with din := x }) h hnb)

end

/-- The chunks of an IV, together: S, the bytes counted, and the last chunk in J0; beside these only DIN, PCL, DONE and
PEND change (42_gcm.md R221). -/
theorem feed_gcmIv (xs : List (Block × BitVec 5)) {s : State} (hready : xs ≠ [] → GcmChunkReady .gcmIv s)
    (hlegal : chunksLegal xs = true) (htable : s.table = buildTable s.subkeyH) :
    ∃ din pcl done pend, feed .gcmIv xs s = { s with
      accS := ghash s.subkeyH s.accS (padded xs), ivlen := s.ivlen + BitVec.ofNat 64 (totalBytes xs)
      j0 := (padded xs).getLastD s.j0, din := din, pcl := pcl, done := done, pend := pend } := by
  induction xs generalizing s with
  | nil =>
    refine ⟨s.din, s.pcl, s.done, s.pend, ?_⟩
    simp [feed, ghash, padded, totalBytes]
  | cons c rest ih =>
    obtain ⟨x, nb⟩ := c
    obtain ⟨hnb, hrest, hwhole⟩ := chunksLegal_cons hlegal
    have hrun := runOn_gcmIv (x := x) (hready nofun) hnb
    have hmore := gcmChunkReady_of_more (t := succeed (gcmIvEffect nb { s with din := x })) (hready nofun) rfl rfl rfl
      hwhole
    obtain ⟨din, pcl, done, pend, hfeed⟩ := ih hmore hrest htable
    refine ⟨din, pcl, done, pend, ?_⟩
    rw [feed, hrun, hfeed, padded_cons, ghash_cons htable, totalBytes_cons, BitVec.ofNat_add, ← byteCount_eq_ofNat,
      ← BitVec.add_assoc, List.getLastD_cons]
    rfl

/-- The chunks of the AAD, together: S and the bits counted; beside these only DIN, PCL, DONE and PEND change (42_gcm.md
R223). -/
theorem feed_gcmAad (xs : List (Block × BitVec 5)) {s : State} (hready : xs ≠ [] → GcmChunkReady .gcmAad s)
    (hlegal : chunksLegal xs = true) (htable : s.table = buildTable s.subkeyH) :
    ∃ din pcl done pend, feed .gcmAad xs s = { s with
      accS := ghash s.subkeyH s.accS (padded xs), aadlen := s.aadlen + BitVec.ofNat 64 (8 * totalBytes xs)
      din := din, pcl := pcl, done := done, pend := pend } := by
  induction xs generalizing s with
  | nil =>
    refine ⟨s.din, s.pcl, s.done, s.pend, ?_⟩
    simp [feed, ghash, padded, totalBytes]
  | cons c rest ih =>
    obtain ⟨x, nb⟩ := c
    obtain ⟨hnb, hrest, hwhole⟩ := chunksLegal_cons hlegal
    have hrun := runOn_gcmAad (x := x) (hready nofun) hnb
    have hmore := gcmChunkReady_of_more (t := succeed (gcmAadEffect nb { s with din := x })) (hready nofun) rfl rfl rfl
      hwhole
    obtain ⟨din, pcl, done, pend, hfeed⟩ := ih hmore hrest htable
    refine ⟨din, pcl, done, pend, ?_⟩
    rw [feed, hrun, hfeed, padded_cons, ghash_cons htable, totalBytes_cons, Nat.mul_add, BitVec.ofNat_add,
      ← bitCount_eq_ofNat, ← BitVec.add_assoc]
    rfl

/-! ### The J0 law -/

/-- Legal chunks of 12 bytes are one chunk: an earlier one would be whole. -/
theorem chunks_of_twelve_bytes {xs : List (Block × BitVec 5)} (hlegal : chunksLegal xs = true)
    (hbytes : totalBytes xs = 12) : ∃ x, xs = [(x, 12)] := by
  match xs with
  | [] => cases hbytes
  | (x, nb) :: rest =>
    obtain ⟨-, -, hwhole⟩ := chunksLegal_cons hlegal
    rw [totalBytes_cons] at hbytes
    by_cases hrest : rest = []
    · subst hrest
      obtain rfl : nb = 12 := BitVec.eq_of_toNat_eq hbytes
      exact ⟨x, rfl⟩
    · obtain rfl := hwhole hrest
      have hsixteen : (16 : BitVec 5).toNat = 16 := rfl
      omega

theorem extractLsb'_mask_twelve (x : Block) : (mask x 12).extractLsb' 32 96 = x.extractLsb' 32 96 := by
  ext i hi
  simp [getLsbD_mask x 12 (32 + i) (by omega)]

/-- Settles O45: the chunks leave the IV's hash in S, its length in IVLEN and its last chunk in J0, and GCM_IVEND takes the
path of the length. -/
theorem preCounterBlockOfAnyIv : Obligations.PreCounterBlockOfAnyIv := by
  intro xs s hinv hphase hpcl hacc hlen hmode hlegal hbound
  have htable := table_of_gcmPhase hinv (congrArg isGcmPhase hphase)
  obtain ⟨din, pcl, done, pend, hfeed⟩ := feed_gcmIv xs (fun _ => ⟨hphase, hmode, hpcl⟩) hlegal htable
  rw [hlen, hacc] at hfeed
  have hexec : exec .gcmIvend (feed .gcmIv xs s) = .next (succeed (gcmIvendEffect (feed .gcmIv xs s))) :=
    exec_of_success (by rw [hfeed]; exact firstFailure_gcmIvend hphase hmode)
  have hbytes : (feed .gcmIv xs s).ivlen.toNat = totalBytes xs := by
    rw [hfeed]
    exact (congrArg BitVec.toNat (BitVec.zero_add _)).trans (Nat.mod_eq_of_lt hbound)
  have hj0 := preCounter_eq (feed .gcmIv xs s)
  rw [hbytes] at hj0
  refine ⟨_, hexec, fun htwelve => ?twelve, fun hother => ?hashed, rfl, rfl, rfl⟩
  case twelve =>
    obtain ⟨x, rfl⟩ := chunks_of_twelve_bytes hlegal htwelve
    rw [if_pos htwelve, hfeed] at hj0
    rw [hfeed]
    exact ⟨x, rfl, hj0.trans (congrArg (· ++ 1#32) (extractLsb'_mask_twelve x))⟩
  case hashed =>
    rw [if_neg hother, hfeed] at hj0
    rw [hfeed]
    exact hj0.trans (tmul_ghash htable 0 _ (padded xs))

/-! ### The blocks of text -/

section

variable {nb : BitVec 5} {x : Block} {rest : List (Block × BitVec 5)} {s : State}

/-- The ciphertext blocks of a text from a counter block in either direction: put out on encryption, taken in on decryption
(42_gcm.md R231). -/
def hashedBlocks (d : Dir) (b : Block) (xs : List (Block × BitVec 5)) : List Block :=
  match d with
  | .enc => counterTexts b xs
  | .dec => padded xs

theorem hashedBlocks_cons :
    hashedBlocks s.cfgDir s.chain ((x, nb) :: rest)
      = hashedBlock s.cfgDir nb { s with din := x } :: hashedBlocks s.cfgDir (inc32 s.chain) rest := by
  cases hdir : s.cfgDir with
  | enc => exact counterTexts_cons s.chain x nb rest
  | dec => exact padded_cons x nb rest

/-- The cipher requests of a text of n blocks from a counter block (20_memory.md R97). -/
def counterRequests (b : Block) (n : Nat) : List CipherRequest :=
  (List.range n).map fun i => .forward (counterAt b i)

theorem counterRequests_succ (b : Block) (n : Nat) :
    counterRequests b (n + 1) = .forward b :: counterRequests (inc32 b) n := by
  simp [counterRequests, List.range_succ_eq_map, counterAt_zero, counterAt_inc32, Function.comp_def]

theorem runOn_gcmBlock (h : GcmTextReady s) (hnb : nbLegal nb = true) :
    runOn x (.block nb) s = succeed { gcmBlock nb (hashedBlock s.cfgDir nb { s with din := x }) { s with din := x } with
      pcl := isPartial nb } := by
  have ⟨hmode, _⟩ := h
  rw [runOn_of_success (firstFailure_gcmBlock (s := { s with din := x }) h hnb), effectOf,
    blockEffect_gcm (s := { s with din := x }) nb hmode]

/-- While blocks are left the stream takes the next: the one before was whole. -/
theorem gcmTextReady_of_more (h : GcmTextReady s) (hnb : nbLegal nb = true) (hwhole : rest ≠ [] → nb = 16) :
    rest ≠ [] → GcmTextReady (runOn x (.block nb) s) := by
  intro hrest
  obtain rfl := hwhole hrest
  have ⟨hmode, _⟩ := h
  rw [runOn_gcmBlock h hnb]
  exact ⟨hmode, .inr ⟨rfl, rfl⟩⟩

end

/-- The blocks of a text, together: counter mode in both directions, the hash of the ciphertext, the bytes counted and one
request for each block; beside these only DIN, DOUT, CHAIN, PHASE, PCL, DONE and PEND change (42_gcm.md R224, R225). -/
theorem feed_gcmText (xs : List (Block × BitVec 5)) {s : State} (hready : xs ≠ [] → GcmTextReady s)
    (hlegal : chunksLegal xs = true) (htable : s.table = buildTable s.subkeyH) :
    outputs .block xs s = counterTexts s.chain xs
    ∧ ∃ din dout chain pcl done pend, feed .block xs s = { s with
      accS := ghash s.subkeyH s.accS (hashedBlocks s.cfgDir s.chain xs)
      clen := s.clen + BitVec.ofNat 64 (totalBytes xs), cipherReqs := s.cipherReqs ++ counterRequests s.chain xs.length
      phase := if xs = [] then s.phase else .gcmText
      din := din, dout := dout, chain := chain, pcl := pcl, done := done, pend := pend } := by
  induction xs generalizing s with
  | nil =>
    refine ⟨rfl, s.din, s.dout, s.chain, s.pcl, s.done, s.pend, ?_⟩
    cases hdir : s.cfgDir <;>
      simp [feed, ghash, hashedBlocks, counterTexts, padded, totalBytes, counterRequests, ← hdir]
  | cons c rest ih =>
    obtain ⟨x, nb⟩ := c
    obtain ⟨hnb, hrest, hwhole⟩ := chunksLegal_cons hlegal
    have hrun := runOn_gcmBlock (x := x) (hready nofun) hnb
    obtain ⟨houtputs, din, dout, chain, pcl, done, pend, hfeed⟩ :=
      ih (gcmTextReady_of_more (hready nofun) hnb hwhole) hrest (by rw [hrun]; exact htable)
    have hphase : (if rest = [] then (runOn x (.block nb) s).phase else .gcmText) = .gcmText := by
      rw [hrun]
      exact ite_self _
    rw [outputs, feed, houtputs, hfeed, hphase, counterTexts_cons, hashedBlocks_cons, hrun]
    refine ⟨rfl, din, dout, chain, pcl, done, pend, ?_⟩
    rw [ghash_cons htable, totalBytes_cons, BitVec.ofNat_add, ← byteCount_eq_ofNat, ← BitVec.add_assoc,
      List.length_cons, counterRequests_succ, List.append_cons, if_neg (List.cons_ne_nil _ _)]
    rfl

/-! ### A whole stream after its IV -/

/-- The length block of a stream from s: the bits of the AAD and of the text, each modulo 2^64 (42_gcm.md R226, R229). -/
def streamLengths (aad text : List (Block × BitVec 5)) (s : State) : Block :=
  lenblock (s.aadlen + BitVec.ofNat 64 (8 * totalBytes aad)) ((s.clen + BitVec.ofNat 64 (totalBytes text)) * 8)

/-- What GCM_FINISH leaves, in t, of a stream over some AAD and text from s (42_gcm.md R226, R228, R231). -/
structure GcmStreamEnd (aad text : List (Block × BitVec 5)) (s t : State) : Prop where
  hash : t.accS = ghash s.subkeyH s.accS
    (padded aad ++ hashedBlocks s.cfgDir s.chain text ++ [streamLengths aad text s])
  tag : t.tag = mask (t.accS ^^^ Config.cipherE s.j0) (s.cfgTlen.toNat / 8)
  requests : t.cipherReqs = s.cipherReqs ++ counterRequests s.chain text.length ++ [.forward s.j0]
  checked : s.cfgDir = .dec → t.tagchk = true ∧ t.tagok = decide (t.tag = s.tagexp)

/-- A stream of legal chunks after its IV puts out the texts of counter mode, and GCM_FINISH ends it. -/
theorem gcmStream_ends {aad text : List (Block × BitVec 5)} {s : State} (hready : GcmChunkReady .gcmAad s)
    (haad : chunksLegal aad = true) (htext : chunksLegal text = true) (htable : s.table = buildTable s.subkeyH) :
    outputs .block text (feed .gcmAad aad s) = counterTexts s.chain text
    ∧ ∃ t, exec .gcmFinish (feed .block text (feed .gcmAad aad s)) = .next t ∧ GcmStreamEnd aad text s t := by
  have ⟨hphase, hmode, _⟩ := hready
  obtain ⟨_, _, _, _, hfeedAad⟩ := feed_gcmAad aad (fun _ => hready) haad htable
  obtain ⟨houtputs, _, _, _, _, _, _, hfeedText⟩ := feed_gcmText text (s := feed .gcmAad aad s)
    (fun _ => by rw [hfeedAad]; exact ⟨hmode, .inl hphase⟩) htext (by rw [hfeedAad]; exact htable)
  have hend : (if text = [] then s.phase else .gcmText) = .gcmAad
      ∨ (if text = [] then s.phase else .gcmText) = .gcmText := by
    split
    · exact .inl hphase
    · exact .inr rfl
  have hhash := tmul_ghash htable s.accS (streamLengths aad text s)
    (padded aad ++ hashedBlocks s.cfgDir s.chain text)
  rw [ghash_append] at hhash
  rw [houtputs, hfeedText, hfeedAad]
  exact ⟨rfl, _, exec_of_success (firstFailure_gcmFinish hmode hend), hhash, rfl, rfl,
    fun hdir => ⟨if_pos hdir, if_pos hdir⟩⟩

/-- The length block of a stream whose counts begin at 0. -/
theorem streamLengths_of_zero {aad text : List (Block × BitVec 5)} {s : State} (haadlen : s.aadlen = 0)
    (hclen : s.clen = 0) :
    streamLengths aad text s = BitVec.ofNat 64 (8 * totalBytes aad) ++ BitVec.ofNat 64 (8 * totalBytes text) := by
  have hbits : BitVec.ofNat 64 (8 * totalBytes text) = BitVec.ofNat 64 (totalBytes text) * 8 := by
    rw [Nat.mul_comm, BitVec.ofNat_mul]
    rfl
  rw [streamLengths, haadlen, hclen, hbits]
  exact congrArg₂ lenblock (BitVec.zero_add _) (congrArg (· * 8) (BitVec.zero_add _))

/-- Settles O46: the stream from CHAIN, S and the counts as GCM_IVEND leaves them; its requests are forward ones, one for
each block and one for the tag. -/
theorem gcmEncryptStreamLaw : Obligations.GcmEncryptStreamLaw := by
  intro aad text s hinv hphase hmode hdir hpcl hacc haadlen hclen haad htext
  have htable := table_of_gcmPhase hinv (congrArg isGcmPhase hphase)
  obtain ⟨houtputs, t, hexec, hend⟩ := gcmStream_ends ⟨hphase, hmode, hpcl⟩ haad htext htable
  have hhash := hend.hash
  rw [streamLengths_of_zero haadlen hclen, hacc, hdir] at hhash
  refine ⟨houtputs, t, hexec, hhash, hend.tag, ?count, fun r hr => ?forward⟩
  case count => simp [hend.requests, counterRequests, Nat.add_assoc]
  case forward =>
    rw [hend.requests, List.append_assoc, List.mem_append] at hr
    refine hr.imp_right fun hnew => ?_
    simp only [counterRequests, List.mem_append, List.mem_map, List.mem_singleton] at hnew
    obtain ⟨i, -, rfl⟩ | rfl := hnew <;> exact ⟨_, rfl⟩

/-! ### Decryption against encryption -/

/-- The same keystream added twice falls out, on the bytes that the mask keeps. -/
theorem maskNb_xor_cancel (x k : Block) (nb : BitVec 5) : maskNb (maskNb (x ^^^ k) nb ^^^ k) nb = maskNb x nb := by
  simp only [maskNb, mask_xor, mask_mask, BitVec.xor_assoc, BitVec.xor_self, BitVec.xor_zero]

theorem length_counterTexts (b : Block) (xs : List (Block × BitVec 5)) : (counterTexts b xs).length = xs.length := by
  simp [counterTexts]

theorem withCounts_cons (y x : Block) (nb : BitVec 5) (ys : List Block) (rest : List (Block × BitVec 5)) :
    withCounts (y :: ys) ((x, nb) :: rest) = (y, nb) :: withCounts ys rest :=
  rfl

/-- Counter mode on its own texts gives back the chunks. -/
theorem counterTexts_counterTexts (b : Block) (xs : List (Block × BitVec 5)) :
    counterTexts b (withCounts (counterTexts b xs) xs) = padded xs := by
  induction xs generalizing b with
  | nil => rfl
  | cons c rest ih =>
    obtain ⟨x, nb⟩ := c
    rw [counterTexts_cons, withCounts_cons, counterTexts_cons, ih, maskNb_xor_cancel, padded_cons]

/-- The texts of counter mode are masked already. -/
theorem padded_counterTexts (b : Block) (xs : List (Block × BitVec 5)) :
    padded (withCounts (counterTexts b xs) xs) = counterTexts b xs := by
  induction xs generalizing b with
  | nil => rfl
  | cons c rest ih =>
    obtain ⟨x, nb⟩ := c
    rw [counterTexts_cons, withCounts_cons, padded_cons, ih]
    exact congrArg (· :: _) (mask_mask _ _)

section

variable {ys : List Block} {xs : List (Block × BitVec 5)}

theorem totalBytes_withCounts (h : ys.length = xs.length) : totalBytes (withCounts ys xs) = totalBytes xs := by
  have hcounts : (withCounts ys xs).map Prod.snd = xs.map Prod.snd := List.map_snd_zip (by simp [h])
  simpa [totalBytes, Function.comp_def] using congrArg (fun nbs => (nbs.map BitVec.toNat).sum) hcounts

theorem chunksLegal_withCounts (h : ys.length = xs.length) : chunksLegal (withCounts ys xs) = chunksLegal xs := by
  induction xs generalizing ys with
  | nil => simp [withCounts]
  | cons c rest ih =>
    obtain ⟨x, nb⟩ := c
    obtain ⟨y, tail, rfl⟩ := List.exists_cons_of_length_eq_add_one h
    have htail := ih (Nat.succ.inj h)
    cases rest with
    | nil => simp [withCounts, chunksLegal]
    | cons d more =>
      obtain ⟨z, tail, rfl⟩ := List.exists_cons_of_length_eq_add_one (Nat.succ.inj h)
      exact congrArg (nb == 16 && ·) htail

end

/-- Settles O47: both streams put out counter mode from one CHAIN, and hash the same ciphertext. -/
theorem gcmDecryptAcceptsExactlyTheEncryptTag : Obligations.GcmDecryptAcceptsExactlyTheEncryptTag := by
  intro aad text x s t hinv hphase hmode hdir hpcl haad htext hexec
  have htable := table_of_gcmPhase hinv (congrArg isGcmPhase hphase)
  obtain ⟨houtputs, t', hexec', hencrypt⟩ := gcmStream_ends ⟨hphase, hmode, hpcl⟩ haad htext htable
  obtain rfl : t' = t := by simpa [hexec'] using hexec
  have hlength := length_counterTexts s.chain text
  rw [houtputs]
  set ciphertext := withCounts (counterTexts s.chain text) text
  obtain ⟨hplain, u, hfinish, hdecrypt⟩ := gcmStream_ends (s := { s with cfgDir := .dec, tagexp := x })
    ⟨hphase, hmode, hpcl⟩ haad ((chunksLegal_withCounts hlength).trans htext) htable
  have hhash : u.accS = t'.accS := by
    have hconsumed : u.accS = ghash s.subkeyH s.accS (padded aad ++ padded ciphertext
        ++ [streamLengths aad ciphertext s]) := hdecrypt.hash
    rw [hconsumed, hencrypt.hash, hdir, padded_counterTexts, streamLengths, totalBytes_withCounts hlength]
    rfl
  have htag : u.tag = t'.tag := by
    rw [hdecrypt.tag, hencrypt.tag, hhash]
  obtain ⟨htagchk, htagok⟩ := hdecrypt.checked rfl
  rw [htag] at htagok
  exact ⟨u, hfinish, hplain.trans (counterTexts_counterTexts s.chain text), hhash, htag, htagchk,
    htagok.trans (by simp [eq_comm])⟩

end Sys2Proof.Machine
end

section
/-! PROOF. The field laws of the reference product. It is linear in its second factor and commutes with mulx, so that the
products by two blocks commute as maps; at the identity of the field this is commutativity, and associativity follows. -/

namespace Sys2Proof.Machine

/-! ### The reference product adds in its second factor -/

theorem xor_xor_xor_comm (a b c d : Block) : (a ^^^ b) ^^^ (c ^^^ d) = (a ^^^ c) ^^^ (b ^^^ d) := by
  ac_rfl

theorem mulx_xor (v w : Block) : mulx (v ^^^ w) = mulx v ^^^ mulx w := by
  have hcarry : (if (v ^^^ w).getLsbD 0 then reduction else 0)
      = (if v.getLsbD 0 then reduction else 0) ^^^ (if w.getLsbD 0 then reduction else 0) := by
    rw [BitVec.getLsbD_xor]
    cases v.getLsbD 0 <;> cases w.getLsbD 0 <;> simp
  rw [mulx, mulx, mulx, hcarry, BitVec.ushiftRight_xor_distrib, xor_xor_xor_comm]

theorem gmulRound_xor_right (x z w v u : Block) (i : Nat) :
    gmulRound x (z ^^^ w, v ^^^ u) i
      = ((gmulRound x (z, v) i).1 ^^^ (gmulRound x (w, u) i).1, mulx v ^^^ mulx u) := by
  rw [gmulRound, gmulRound, gmulRound, mulx_xor]
  cases x.getLsbD (127 - i) <;> simp [xor_xor_xor_comm z w v u]

theorem foldl_gmulRound_xor_right (x : Block) (is : List Nat) (z w v u : Block) :
    (is.foldl (gmulRound x) (z ^^^ w, v ^^^ u)).1
      = (is.foldl (gmulRound x) (z, v)).1 ^^^ (is.foldl (gmulRound x) (w, u)).1 := by
  induction is generalizing z w v u with
  | nil => rfl
  | cons i rest ih => rw [List.foldl_cons, gmulRound_xor_right, ih]; rfl

theorem gmulRef_xor_right (x v w : Block) : gmulRef x (v ^^^ w) = gmulRef x v ^^^ gmulRef x w :=
  foldl_gmulRound_xor_right x (List.range 128) 0 0 v w

/-! ### Maps that the product passes through -/

/-- A map of blocks that is linear over the field: it adds, and commutes with mulx. -/
structure FieldLinear (f : Block → Block) : Prop where
  map_xor : ∀ v w, f (v ^^^ w) = f v ^^^ f w
  map_mulx : ∀ v, f (mulx v) = mulx (f v)

theorem fieldLinear_mulx : FieldLinear mulx :=
  ⟨mulx_xor, fun _ => rfl⟩

section

variable {f : Block → Block}

theorem FieldLinear.map_zero (hf : FieldLinear f) : f 0 = 0 := by
  have hsum : f 0 = f 0 ^^^ f 0 := hf.map_xor 0 0
  rwa [BitVec.xor_self] at hsum

theorem FieldLinear.map_gmulRound (hf : FieldLinear f) (x z v : Block) (i : Nat) :
    gmulRound x (f z, f v) i = (f (gmulRound x (z, v) i).1, f (mulx v)) := by
  rw [gmulRound, gmulRound, hf.map_mulx]
  cases x.getLsbD (127 - i) <;> simp [hf.map_xor]

theorem FieldLinear.map_foldl_gmulRound (hf : FieldLinear f) (x : Block) (is : List Nat) (z v : Block) :
    f (is.foldl (gmulRound x) (z, v)).1 = (is.foldl (gmulRound x) (f z, f v)).1 := by
  induction is generalizing z v with
  | nil => rfl
  | cons i rest ih => rw [List.foldl_cons, List.foldl_cons, hf.map_gmulRound, ← ih]; rfl

/-- A product by x is a sum of powers of mulx, so a linear map passes through it. -/
theorem FieldLinear.map_gmulRef (hf : FieldLinear f) (x v : Block) : f (gmulRef x v) = gmulRef x (f v) := by
  have hfold := hf.map_foldl_gmulRound x (List.range 128) 0 v
  rwa [hf.map_zero] at hfold

end

theorem fieldLinear_gmulRef (x : Block) : FieldLinear (gmulRef x) :=
  ⟨gmulRef_xor_right x, fun v => (fieldLinear_mulx.map_gmulRef x v).symm⟩

/-- The products by two blocks commute as maps. -/
theorem gmulRef_left_comm (x y z : Block) : gmulRef x (gmulRef y z) = gmulRef y (gmulRef x z) :=
  (fieldLinear_gmulRef x).map_gmulRef y z

/-! ### The identity of the field -/

/-- The identity of the field, the block of its most significant bit (43_galois.md R261). -/
def fieldOne : Block :=
  0x80000000000000000000000000000000

/-- Where no bit is shifted out, mulx moves a single bit one place down. -/
theorem mulx_twoPow_succ {k : Nat} (hk : k + 1 < 128) : mulx (BitVec.twoPow 128 (k + 1)) = BitVec.twoPow 128 k := by
  have hshift : BitVec.twoPow 128 (k + 1) >>> 1 = BitVec.twoPow 128 k := by
    apply BitVec.eq_of_getLsbD_eq
    intro j hj
    have hplace : k + 1 = 1 + j ↔ k = j := by omega
    simp only [BitVec.getLsbD_ushiftRight, BitVec.getLsbD_twoPow, hplace, hk, Nat.lt_of_succ_lt hk]
  have hlow : (BitVec.twoPow 128 (k + 1)).getLsbD 0 = false := by simp
  rw [mulx, hshift, hlow]
  exact BitVec.xor_zero

theorem foldl_range_succ_gmulRound (x : Block) (zv : Block × Block) (n : Nat) :
    (List.range (n + 1)).foldl (gmulRound x) zv = gmulRound x ((List.range n).foldl (gmulRound x) zv) n := by
  rw [List.range_succ, List.foldl_append, List.foldl_cons, List.foldl_nil]

/-- In a product with the identity, V before round n is the one bit that the round reads. -/
theorem foldl_gmulRound_one_snd (x : Block) {n : Nat} (hn : n < 128) :
    ((List.range n).foldl (gmulRound x) (0, fieldOne)).2 = BitVec.twoPow 128 (127 - n) := by
  induction n with
  | zero => rfl
  | succ n ih =>
    have hplace : 127 - n = 127 - (n + 1) + 1 := by omega
    rw [foldl_range_succ_gmulRound, gmulRound, ih (by omega), hplace, mulx_twoPow_succ (by omega)]

/-- In a product with the identity, Z before round n holds the leading n bits. -/
theorem getLsbD_foldl_gmulRound_one (x : Block) (j : Nat) {n : Nat} (hn : n ≤ 128) :
    ((List.range n).foldl (gmulRound x) (0, fieldOne)).1.getLsbD j = (x.getLsbD j && decide (128 - n ≤ j)) := by
  induction n with
  | zero =>
    by_cases hj : j < 128
    · simp [hj]
    · simp [BitVec.getLsbD_of_ge x j (by omega)]
  | succ n ih =>
    have hround : ((List.range (n + 1)).foldl (gmulRound x) (0, fieldOne)).1.getLsbD j
        = ((x.getLsbD j && decide (128 - n ≤ j)) ^^ (x.getLsbD (127 - n) && decide (127 - n = j))) := by
      rw [foldl_range_succ_gmulRound, gmulRound, foldl_gmulRound_one_snd x hn, ← ih (by omega)]
      have hin : 127 - n < 128 := by omega
      cases x.getLsbD (127 - n) <;> simp [BitVec.getLsbD_twoPow, hin]
    rw [hround]
    by_cases hnew : 127 - n = j
    · subst hnew
      have hread : ¬ 128 - n ≤ 127 - n ∧ 128 - (n + 1) ≤ 127 - n := by omega
      simp [hread]
    · have hsame : 128 - (n + 1) ≤ j ↔ 128 - n ≤ j := by omega
      rw [decide_eq_false hnew, decide_eq_decide.mpr hsame, Bool.and_false, Bool.xor_false]

theorem gmulRef_fieldOne_right (x : Block) : gmulRef x fieldOne = x := by
  apply BitVec.eq_of_getLsbD_eq
  intro j _
  rw [gmulRef, getLsbD_foldl_gmulRound_one x j (Nat.le_refl 128)]
  simp

/-! ### The field laws -/

theorem gmulRef_comm (x y : Block) : gmulRef x y = gmulRef y x :=
  calc gmulRef x y
    _ = gmulRef x (gmulRef y fieldOne) := by rw [gmulRef_fieldOne_right]
    _ = gmulRef y (gmulRef x fieldOne) := gmulRef_left_comm x y fieldOne
    _ = gmulRef y x := by rw [gmulRef_fieldOne_right]

theorem gmulRef_fieldOne_left (y : Block) : gmulRef fieldOne y = y := by
  rw [gmulRef_comm, gmulRef_fieldOne_right]

/-- mulx is the product with the block one place below the identity's bit (43_galois.md R275). -/
theorem mulx_eq_gmulRef (v : Block) : mulx v = gmulRef 0x40000000000000000000000000000000 v := by
  have hone : mulx fieldOne = 0x40000000000000000000000000000000 := by decide
  rw [← hone, gmulRef_comm, ← fieldLinear_mulx.map_gmulRef, gmulRef_fieldOne_right]

/-- Settles O49: the sums and the zeros by linearity in each factor, the identity and mulx at the field's one. -/
theorem referenceProductIsBilinear : Obligations.ReferenceProductIsBilinear :=
  ⟨gmulRef_xor_left, gmulRef_xor_right, gmulRef_fieldOne_left,
    fun y => ⟨gmulRef_zero_left y, (fieldLinear_gmulRef y).map_zero⟩, mulx_eq_gmulRef⟩

/-- Settles O50: the products by x and by y commute, and give x and y at the identity. -/
theorem referenceProductCommutes : Obligations.ReferenceProductCommutes :=
  gmulRef_comm

/-- Settles O51, by commutativity from the products by x and by z, which commute. -/
theorem referenceProductAssociates : Obligations.ReferenceProductAssociates := by
  intro x y z
  calc gmulRef (gmulRef x y) z
    _ = gmulRef z (gmulRef x y) := gmulRef_comm _ _
    _ = gmulRef x (gmulRef z y) := gmulRef_left_comm z x y
    _ = gmulRef x (gmulRef y z) := by rw [gmulRef_comm z y]

end Sys2Proof.Machine
end

section
/-! PROOF. The GHASH core: the table law in a state of the invariant, the nibbles of a block in its words, and the whole
effect of each command. -/

namespace Sys2Proof.Machine

open Safety

/-! ### The table -/

/-- Settles O48: the table is that of H, and the product by the table of a subkey is the reference product. -/
theorem tableProductIsReferenceProduct : Obligations.TableProductIsReferenceProduct := by
  intro s x hinv htblv
  rw [hinv.table_of_subkey htblv, tmul_buildTable]

theorem getLsbD_and_fifteen (w : Word) (i : Nat) : (w &&& 0xF).getLsbD i = (w.getLsbD i && decide (i < 4)) := by
  have hones : (0xF : Word).getLsbD i = (decide (i < 32) && decide (i < 4)) := by
    have hbit : (2 ^ 4 - 1).testBit i = decide (i < 4) := Nat.testBit_two_pow_sub_one 4 i
    rw [← hbit]
    exact BitVec.getLsbD_ofNat 32 (2 ^ 4 - 1) i
  rw [BitVec.getLsbD_and, hones]
  by_cases hi : i < 32
  · simp [hi]
  · simp [BitVec.getLsbD_of_ge w i (by omega)]

/-- Settles O52: bit i of the nibble is bit 124 - 4p + i of the block, by either route. -/
theorem nibblesOfABlockAreNibblesOfItsWords : Obligations.NibblesOfABlockAreNibblesOfItsWords := by
  intro x p hp
  refine ⟨rfl, BitVec.eq_of_getLsbD_eq fun i hi => ?_⟩
  rw [getLsbD_and_fifteen, nib, blockWord, BitVec.getLsbD_setWidth, BitVec.getLsbD_ushiftRight,
    BitVec.getLsbD_extractLsb', BitVec.getLsbD_extractLsb']
  by_cases hnib : i < 4
  · have hin : 4 * (7 - p % 8) + i < 32 := by omega
    have hbit : 96 - 32 * (p / 8) + (4 * (7 - p % 8) + i) = 124 - 4 * p + i := by omega
    simp [hi, hnib, hin, hbit]
  · simp [hnib]

/-! ### The commands -/

/-- Settles O53: GH_LOADH has no check, and its table is that of DIN, whose product with a zero DIN is zero. -/
theorem ghLoadhBuildsTheTable : Obligations.GhLoadhBuildsTheTable := by
  intro s
  refine ⟨_, exec_of_success rfl, rfl, fun p n hp hn => tableAt_buildTable s.din p n hp hn, fun hzero x => ?_⟩
  calc tmul (buildTable s.din) x
    _ = gmulRef x s.din := tmul_buildTable s.din x
    _ = gmulRef x 0 := by rw [hzero]
    _ = 0 := (fieldLinear_gmulRef x).map_zero

theorem inc32_eq_ofNat (v : Block) :
    inc32 v = v.extractLsb' 32 96 ++ BitVec.ofNat 32 ((v.extractLsb' 0 32).toNat + 1) := by
  rw [inc32, BitVec.ofNat_add, BitVec.ofNat_toNat, BitVec.setWidth_eq]
  rfl

/-- Settles O54: none of the four has a check. -/
theorem plainCommandsWriteTheirOneResult : Obligations.PlainCommandsWriteTheirOneResult := by
  intro s
  refine ⟨exec_of_success rfl, exec_of_success rfl, exec_of_success rfl, ?_⟩
  rw [← inc32_eq_ofNat]
  exact exec_of_success rfl

theorem exec_of_failure {i : Instr} {e : ErrCode} {s : State} (h : firstFailure (checksOf i s) = some e) :
    exec i s = .next (errorState i.opcode.isStream e s) := by
  rw [exec_eq_commit_effectOf, commit_of_failure h, raiseError_eq_errorState]

theorem firstFailure_keyCheck (s : State) : firstFailure [keyCheck s] = if s.tblv then none else some .noKey :=
  rfl

/-- Settles O55: a legal byte count passes the check of NB, so TBLV alone decides. -/
theorem ghStepFoldsOneBlock : Obligations.GhStepFoldsOneBlock := by
  intro nb s hpos hle
  have hchecks : firstFailure (checksOf (.ghStep nb) s) = if s.tblv then none else some .noKey := by
    simp [checksOf, nbCheck, nbLegal_of_range hpos hle, keyCheck]
  refine ⟨fun htblv => ?_, fun htblv => ?_⟩
  · rw [exec_of_success (hchecks.trans (if_pos htblv))]
    rfl
  · rw [exec_of_failure (hchecks.trans (if_neg (by simp [htblv])))]
    rfl

/-- Settles O56: both commands have the check of TBLV alone, and the table law makes their effects one. -/
theorem productCommandsAgree : Obligations.ProductCommandsAgree := by
  intro s
  have hruns (htblv : s.tblv = true) : firstFailure [keyCheck s] = none := by
    rw [firstFailure_keyCheck, if_pos htblv]
  have hfails (htblv : s.tblv = false) : firstFailure [keyCheck s] = some .noKey := by
    rw [firstFailure_keyCheck, htblv]
    rfl
  refine ⟨fun htblv => ?_, fun htblv => ?_, fun hinv => ?_⟩
  · exact ⟨exec_of_success (hruns htblv), exec_of_success (hruns htblv)⟩
  · exact ⟨exec_of_failure (i := .ghMulref) (hfails htblv), exec_of_failure (i := .ghMultbl) (hfails htblv)⟩
  · cases htblv : s.tblv with
    | true =>
      have heffects : effectOf .ghMulref s = effectOf .ghMultbl s := by
        simp only [effectOf, hinv.table_of_subkey htblv, tmul_buildTable]
      rw [exec_of_success (i := .ghMulref) (hruns htblv), exec_of_success (i := .ghMultbl) (hruns htblv), heffects]
    | false =>
      rw [exec_of_failure (i := .ghMulref) (hfails htblv), exec_of_failure (i := .ghMultbl) (hfails htblv)]
      rfl

end Sys2Proof.Machine
end

section
/-! PROOF. The command error and the interrupt line: a command word ends in the error state or in its command's effect, and
irq follows the flags with their enables. -/

namespace Sys2Proof.Machine

open Safety

/-! ### The interrupt line -/

theorem irq_eq_true_iff {s : State} :
    irq s = true ↔ (s.done = true ∧ s.ieDone = true) ∨ ((s.err = true ∨ s.ovf = true) ∧ s.ieErr = true) := by
  simp [irq]

/-- A commit leaves CTRL's enable of DONE: an error does not write it, nor does any effect (60_exceptions.md R312). -/
theorem commitWord_ieDone {w : Word} {s t : State} (h : commitWord w s = .next t) : t.ieDone = s.ieDone := by
  obtain ⟨stream, e, rfl⟩ | ⟨i, -, -, rfl⟩ := commitWord_cases h
  · rfl
  · exact (congrArg State.ieDone (effectOf_frame i s) :)

/-- Settles O18: each event leaves a flag set with its enable, or all three flags or both enables cleared. -/
theorem interruptFollowsFlagsAndEnables : Obligations.InterruptFollowsFlagsAndEnables := by
  refine ⟨fun s => irq_eq_true_iff, ?commit, ?error, ?dropped, ?cleared, ?disabled⟩
  case commit =>
    intro w s t hcommit hie
    exact irq_eq_true_iff.mpr (.inl ⟨commitWord_done hcommit, (commitWord_ieDone hcommit).trans hie⟩)
  case error =>
    intro i e s _ hie
    exact irq_eq_true_iff.mpr (.inr ⟨.inl rfl, hie⟩)
  case dropped =>
    intro v s hpend hie off hoff
    obtain ⟨-, -, -, -, hdrop, -⟩ := writesFollowTheRegisterMap v s
    rw [hdrop hpend off hoff]
    exact irq_eq_true_iff.mpr (.inr ⟨.inr rfl, hie⟩)
  case cleared =>
    intro v s hdone herr hovf
    obtain ⟨-, -, hstatus, -⟩ := writesFollowTheRegisterMap v s
    simp [hstatus, irq, hdone, herr, hovf]
  case disabled =>
    intro s
    obtain ⟨hctrl, -⟩ := writesFollowTheRegisterMap 0 s
    rw [hctrl rfl]
    simp [irq]

/-! ### A command word fails precisely or succeeds -/

/-- A command word fails in the error state, the stream aborted when its OP names a stream command, or it decodes to a
command and leaves that command's effect (60_exceptions.md R312). -/
theorem commitWord_fails_or_succeeds (w : Word) (s : State) :
    (∃ e, commitWord w s = .next (errorState ((opcodeOf (opField w)).elim false Opcode.isStream) e s))
    ∨ ∃ i, decode w = .ok i ∧ commitWord w s = .next (succeed (effectOf i s)) := by
  cases hop : opcodeOf (opField w) with
  | none => exact .inl ⟨_, commitWord_of_no_opcode hop⟩
  | some op =>
    by_cases hlegal : FieldsLegal op w
    · have hdecode := decode_of_fieldsLegal hop hlegal
      rw [commitWord_of_decode hdecode]
      cases hchecks : firstFailure (checksOf (assemble op w) s) with
      | some e =>
        have hfail := exec_of_failure hchecks
        rw [opcode_assemble] at hfail
        exact .inl ⟨e, hfail⟩
      | none => exact .inr ⟨_, hdecode, exec_of_success hchecks⟩
    · exact .inl ⟨_, commitWord_of_not_fieldsLegal hop hlegal⟩

/-- Settles O19: no effect writes ERR, ERRCODE or OVF, and the end of a commit sets DONE and empties PEND. -/
theorem commandsSucceedOrFailPrecisely : Obligations.CommandsSucceedOrFailPrecisely := by
  intro w s
  refine (commitWord_fails_or_succeeds w s).imp_right fun ⟨i, hdecode, hcommit⟩ => ?_
  have hframe := effectOf_frame i s
  exact ⟨i, _, hdecode, hcommit, (congrArg State.err hframe :), (congrArg State.errcode hframe :),
    (congrArg State.ovf hframe :), rfl, rfl⟩

end Sys2Proof.Machine
end
